-- ==== Sys2Proof/Word.lean ====
section
/-! DEFINITION. The words of SOL-CE: bytes of the wire and of the host operands, and the 24-bit host command
word (00_scope.md R9, 30_encoding.md R70). Everything is unsigned (R9, R71). -/

namespace Sys2Proof

/-- A byte: 8 bits, bit 0 least significant (R9). -/
abbrev Byte := BitVec 8

/-- A host command word, format HOST24 (R70). -/
abbrev HostWord := BitVec 24

end Sys2Proof
end

