-- ==== Sys2Proof/Config.lean ====
section
/-! DEFINITION. What is fixed for one block but open in the spec (00_scope.md R8, 10_state.md R35): the type
`Config` of its parameters, the defaults the spec names, the constraints of R8, and the FREE VALUES: constants with no
body, about which nothing can be proved. `Config` is plain data, so that a run can be written out under any
parameters. -/

namespace Sys2Proof

/-- The two controller variants (R2, R21): encoding 0 is SH1106, 1 is SSD1306 (R73). -/
inductive Chip where
  | sh1106
  | ssd1306
deriving DecidableEq, Repr

/-- The three print modes (R28), in the order of their encodings 0, 1, 2 (R73). -/
inductive PrintMode where
  | overwriteSameLine
  | overwriteNextLine
  | scrollLine
deriving DecidableEq, Repr

/-- `FLIP_FRAMING` (R8, decision D18): whether the two opcodes of a flip travel as one command burst or two. -/
inductive FlipFraming where
  | oneBurst
  | twoBursts
deriving DecidableEq, Repr

/-- `CLEAR_SWEEP_START` (R8, R160, decision D16): the pixel column at which a line-clear sweep begins. -/
inductive SweepStart where
  | zero
  | columnOffset
deriving DecidableEq, Repr

/-- The opcode list of a command burst, never empty by construction (R78, R81, R90): all opcodes but the last,
and the last. -/
structure CmdBurst where
  front : List Byte
  last : Byte
deriving DecidableEq, Repr, Inhabited

/-- The opcodes in transmission order. -/
def CmdBurst.opcodes (b : CmdBurst) : List Byte := b.front ++ [b.last]

/-- One byte of a power-on table, "command or argument" (R153). The wire does not show which it is: every byte travels as an
opcode byte (R78, R90). -/
structure PowerOnByte where
  /-- The byte. -/
  byte : Byte
  /-- It is an argument of a command before it. -/
  isArgument : Bool
deriving DecidableEq, Repr, Inhabited

/-- One burst of a power-on table, never empty by construction (R90, R153): all bytes but the last, and the last. -/
structure PowerOnBurst where
  front : List PowerOnByte
  last : PowerOnByte
deriving DecidableEq, Repr, Inhabited

/-- The bytes in transmission order. -/
def PowerOnBurst.bytes (b : PowerOnBurst) : List PowerOnByte := b.front ++ [b.last]

/-- One of its commands is the opcode `o`. -/
abbrev PowerOnBurst.hasCommand (b : PowerOnBurst) (o : Byte) : Prop := ∃ x ∈ b.bytes, x.isArgument = false ∧ x.byte = o

/-- The command burst it is sent as (R153): every byte as an opcode byte. -/
def PowerOnBurst.toCmd (b : PowerOnBurst) : CmdBurst where
  front := b.front.map PowerOnByte.byte
  last := b.last.byte

/-- A command byte of the table with a flipped orientation opcode replaced by the unflipped one; an argument stays. -/
def PowerOnByte.unflip (segFlipped segUnflipped scanFlipped scanUnflipped : Byte) (x : PowerOnByte) : PowerOnByte :=
  if x.isArgument then x
  else if x.byte = segFlipped then { x with byte := segUnflipped }
  else if x.byte = scanFlipped then { x with byte := scanUnflipped }
  else x

/-- The same for a burst. -/
def PowerOnBurst.unflip (segFlipped segUnflipped scanFlipped scanUnflipped : Byte) (b : PowerOnBurst) : PowerOnBurst where
  front := b.front.map (PowerOnByte.unflip segFlipped segUnflipped scanFlipped scanUnflipped)
  last := b.last.unflip segFlipped segUnflipped scanFlipped scanUnflipped

/-- A glyph bitmap: 8 bytes, column-major, `g0` the leftmost pixel column (R55). -/
structure Glyph where
  g0 : Byte
  g1 : Byte
  g2 : Byte
  g3 : Byte
  g4 : Byte
  g5 : Byte
  g6 : Byte
  g7 : Byte
deriving DecidableEq, Repr, Inhabited

/-- The parameters of R8, in the order of its table. None is written by any operation (R35). `glyphTable` lists the
glyphs of the codes from 32 on (entry index `code - 32`, R55); a code it does not list has a free glyph. -/
structure Config where
  /-- `CTRL_MORE`: "more commands follow". -/
  ctrlMore : Byte
  /-- `CTRL_LAST`: "last command". -/
  ctrlLast : Byte
  /-- `CTRL_DATA`: "data follows". -/
  ctrlData : Byte
  /-- `OP_PAGE_ADDRESS`. -/
  opPageAddress : Byte
  /-- `OP_COL_LOW`. -/
  opColLow : Byte
  /-- `OP_COL_HIGH`. -/
  opColHigh : Byte
  /-- `OP_START_LINE`. -/
  opStartLine : Byte
  /-- `OP_MODE_NORMAL`. -/
  opModeNormal : Byte
  /-- `OP_MODE_INVERSE`. -/
  opModeInverse : Byte
  /-- `OP_SEG_UNFLIPPED`. -/
  opSegUnflipped : Byte
  /-- `OP_SEG_FLIPPED`. -/
  opSegFlipped : Byte
  /-- `OP_SCAN_UNFLIPPED`. -/
  opScanUnflipped : Byte
  /-- `OP_SCAN_FLIPPED`. -/
  opScanFlipped : Byte
  /-- `FLIP_FRAMING`. -/
  flipFraming : FlipFraming
  /-- `ADDR_A`. -/
  addrA : Byte
  /-- `ADDR_B`. -/
  addrB : Byte
  /-- `ADDR_AUTO`. -/
  addrAuto : Byte
  /-- `DEFAULT_COL_OFFSET(SH1106)`, in [0,3] by its width. -/
  defaultColOffsetSH1106 : BitVec 2
  /-- `POWER_ON_BURSTS(SH1106)`. -/
  powerOnSH1106 : List PowerOnBurst
  /-- `POWER_ON_BURSTS(SSD1306)`. -/
  powerOnSSD1306 : List PowerOnBurst
  /-- `CLEAR_SWEEP_START`. -/
  clearSweepStart : SweepStart
  /-- `TX_TIMEOUT`, opaque: no rule reads it. -/
  txTimeout : Nat
  /-- `RESET_PRINT_MODE`. -/
  resetPrintMode : PrintMode
  /-- `Glyph`, as the table of R55. -/
  glyphTable : List Glyph
deriving DecidableEq, Repr

/-- FREE VALUE. The transport's answer to the `n`-th write of the run, true for `ok` (R52: "free at every write"), where
`State.answers` scripts none. -/
opaque Config.freeAnswer : Nat → Bool

/-- FREE VALUE. The glyph of a code that the glyph table does not list (R55: the contents are out of scope). -/
opaque Config.freeGlyph : Nat → Glyph

/-- FREE VALUE. The power-on table of a chip, before R153's constraint is put on it (R153: "Nothing else may be assumed of the
list"; R8 gives no default). -/
opaque Config.freePowerOn : Chip → List PowerOnBurst

/-- FREE VALUE. The transport timeout (R8, decision D21: no value is given). -/
opaque Config.freeTimeout : Nat

/-- FREE VALUE. The controller's page pointer where the spec does not say what it holds. -/
opaque Config.freePage : Nat → BitVec 3

/-- FREE VALUE. The controller's column pointer where the spec does not say what it holds. -/
opaque Config.freeColumn : Nat → BitVec 8

/-- FREE VALUE. The controller's start-line register where the spec does not say what it holds. -/
opaque Config.freeStartLine : Nat → BitVec 6

/-- FREE VALUE. The controller's inverse mode where the spec does not say what it is. -/
opaque Config.freeInverse : Nat → Bool

/-- FREE VALUE. The controller's segment-remap setting where the spec does not say what it is. -/
opaque Config.freeSegFlipped : Nat → Bool

/-- FREE VALUE. The controller's scan-direction setting where the spec does not say what it is. -/
opaque Config.freeScanFlipped : Nat → Bool

/-- The default parameters of R8. The byte values are marked there as general knowledge (PRESUMED by the spec, G1 to G6);
what R8 gives no default for is a free value. The power-on tables are any that R153 allows: a free table whose commands are
held to the unflipped opcodes, which leaves every such table as it is. -/
def Config.default : Config where
  ctrlMore := 0x80
  ctrlLast := 0x00
  ctrlData := 0x40
  opPageAddress := 0xB0
  opColLow := 0x00
  opColHigh := 0x10
  opStartLine := 0x40
  opModeNormal := 0xA6
  opModeInverse := 0xA7
  opSegUnflipped := 0xA1
  opSegFlipped := 0xA0
  opScanUnflipped := 0xC8
  opScanFlipped := 0xC0
  flipFraming := .oneBurst
  addrA := 0x3C
  addrB := 0x3D
  addrAuto := 0x00
  defaultColOffsetSH1106 := 2
  powerOnSH1106 := (Config.freePowerOn .sh1106).map (PowerOnBurst.unflip 0xA0 0xA1 0xC0 0xC8)
  powerOnSSD1306 := (Config.freePowerOn .ssd1306).map (PowerOnBurst.unflip 0xA0 0xA1 0xC0 0xC8)
  clearSweepStart := .zero
  txTimeout := Config.freeTimeout
  resetPrintMode := .overwriteSameLine
  glyphTable := []

/-- The constraint R153 derives for the power-on tables: "the segment-remap and scan-direction opcodes inside" them are the
unflipped ones. An argument byte may have any value. -/
abbrev Config.PowerOnUnflipped (c : Config) : Prop :=
  ∀ b ∈ c.powerOnSH1106 ++ c.powerOnSSD1306, ∀ x ∈ b.bytes,
    x.isArgument = false → x.byte ≠ c.opSegFlipped ∧ x.byte ≠ c.opScanFlipped

/-- The constraint column of R8: control bytes pairwise distinct, the bases' argument bits zero, the two opcodes of
each pair different, the three addresses pairwise distinct, the power-on tables as R153 says. -/
abbrev Config.Valid (c : Config) : Prop :=
  (c.ctrlMore ≠ c.ctrlLast ∧ c.ctrlMore ≠ c.ctrlData ∧ c.ctrlLast ≠ c.ctrlData) ∧
  (c.opPageAddress &&& 0x07 = 0 ∧ c.opColLow &&& 0x0F = 0 ∧ c.opColHigh &&& 0x0F = 0 ∧ c.opStartLine &&& 0x3F = 0) ∧
  (c.opModeNormal ≠ c.opModeInverse ∧ c.opSegUnflipped ≠ c.opSegFlipped ∧ c.opScanUnflipped ≠ c.opScanFlipped) ∧
  (c.addrA ≠ c.addrB ∧ c.addrA ≠ c.addrAuto ∧ c.addrB ≠ c.addrAuto) ∧
  c.PowerOnUnflipped

/-- The ten opcode classes of format WIRE_OP as (mask, value) pairs, in the order of spec/opcode_table.json. -/
def Config.opcodeClasses (c : Config) : List (Byte × Byte) :=
  [(0xF8, c.opPageAddress), (0xF0, c.opColLow), (0xF8, c.opColHigh), (0xC7, c.opStartLine),
   (0xFF, c.opModeNormal), (0xFF, c.opModeInverse), (0xFF, c.opSegUnflipped), (0xFF, c.opSegFlipped),
   (0xFF, c.opScanUnflipped), (0xFF, c.opScanFlipped)]

/-- No byte belongs to two opcode classes: two classes differ in a bit that both fix. R8 does not list this constraint
(DEDUCED: a controller that obeys R83 to R89 can only tell its opcodes apart if it holds); statements about what the
controller does take it as a premise. -/
abbrev Config.OpcodesDisjoint (c : Config) : Prop :=
  c.opcodeClasses.Pairwise fun x y => x.2 &&& (x.1 &&& y.1) ≠ y.2 &&& (x.1 &&& y.1)

end Sys2Proof
end

