-- ==== Sys2Proof/Syntax.lean ====
section
/-! DEFINITION. The instructions: every row of spec/opcode_table.json is one constructor. The first twelve are the host
operations of format HOST24 (30_encoding.md R72), which the block executes; the other thirteen are the wire bytes of formats
WIRE_CTRL and WIRE_OP (R80, R83 to R89), which the controller at the far end of the transport port executes. -/

namespace Sys2Proof

/-- One constructor per row of the opcode table, in the table's order. Operand bytes of host operations are kept as they
are presented (R71), in range or not (R75). -/
inductive Instr where
  /-- `INIT chip, requestedAddress` (R151). -/
  | init (chip : Chip) (requestedAddress : Byte)
  /-- `PRINT_CHAR code` (R104). -/
  | printChar (code : Byte)
  /-- `CLEAR` (R164). -/
  | clear
  /-- `CLEAR_LINE row` (R161). -/
  | clearLine (row : Byte)
  /-- `CLEAR_CURRENT_LINE` (R162). -/
  | clearCurrentLine
  /-- `SET_CURSOR line, column` (R138). -/
  | setCursor (line : Byte) (column : Byte)
  /-- `HOME` (R139). -/
  | home
  /-- `SET_INVERSE flag` (R165). -/
  | setInverse (flag : Byte)
  /-- `FLIP flag` (R167). -/
  | flip (flag : Byte)
  /-- `SET_INVERSE_FONT flag` (R111). -/
  | setInverseFont (flag : Byte)
  /-- `SET_PRINT_MODE mode` (R110). -/
  | setPrintMode (mode : Byte)
  /-- `SET_DISPLAY_COLUMN_OFFSET n` (R170). -/
  | setDisplayColumnOffset (n : Byte)
  /-- Control byte `CTRL_MORE` (R80). -/
  | ctrlMore
  /-- Control byte `CTRL_LAST` (R80). -/
  | ctrlLast
  /-- Control byte `CTRL_DATA` (R80). -/
  | ctrlData
  /-- Opcode `PAGE_ADDRESS | page` (R83). -/
  | pageAddress (page : BitVec 3)
  /-- Opcode `COLUMN_ADDRESS_LOW | px[3:0]` (R84). -/
  | columnAddressLow (nibble : BitVec 4)
  /-- Opcode `COLUMN_ADDRESS_HIGH | px[7:4]` (R85). -/
  | columnAddressHigh (nibble : BitVec 4)
  /-- Opcode `START_LINE | v` (R86). -/
  | startLine (value : BitVec 6)
  /-- Opcode `MODE_NORMAL` (R87). -/
  | modeNormal
  /-- Opcode `MODE_INVERSE` (R87). -/
  | modeInverse
  /-- Opcode `SEGMENT_REMAP`, unflipped (R88). -/
  | segmentRemapUnflipped
  /-- Opcode `SEGMENT_REMAP`, flipped (R88). -/
  | segmentRemapFlipped
  /-- Opcode `SCAN_DIRECTION`, unflipped (R89). -/
  | scanDirectionUnflipped
  /-- Opcode `SCAN_DIRECTION`, flipped (R89). -/
  | scanDirectionFlipped
deriving DecidableEq, Repr

/-- Where a receiver of the wire stands inside a burst (R93). Control bytes and opcodes "are told apart by position, never
by value" (R86). -/
inductive WirePhase where
  /-- A control byte comes next: the start of a burst, or after the opcode that a `CTRL_MORE` announced. -/
  | control
  /-- The opcode that a `CTRL_MORE` announced comes next. -/
  | opcodeMore
  /-- The opcode that a `CTRL_LAST` announced comes next. It ends the burst. -/
  | opcodeLast
  /-- Data bytes to the end of the burst. -/
  | data
  /-- R93 gives no meaning to a further byte of this burst. -/
  | closed
deriving DecidableEq, Repr

/-- The encoding of one instruction: a host word on the command port or a byte on the wire. -/
inductive Encoded where
  | host (w : HostWord)
  | wire (b : Byte)
deriving DecidableEq, Repr

/-- Whether an instruction is an operation of the command port (R72), executed by the block. -/
def Instr.isHost : Instr → Bool
  | .init _ _ => true
  | .printChar _ => true
  | .clear => true
  | .clearLine _ => true
  | .clearCurrentLine => true
  | .setCursor _ _ => true
  | .home => true
  | .setInverse _ => true
  | .flip _ => true
  | .setInverseFont _ => true
  | .setPrintMode _ => true
  | .setDisplayColumnOffset _ => true
  | .ctrlMore => false
  | .ctrlLast => false
  | .ctrlData => false
  | .pageAddress _ => false
  | .columnAddressLow _ => false
  | .columnAddressHigh _ => false
  | .startLine _ => false
  | .modeNormal => false
  | .modeInverse => false
  | .segmentRemapUnflipped => false
  | .segmentRemapFlipped => false
  | .scanDirectionUnflipped => false
  | .scanDirectionFlipped => false

/-- Whether an instruction is a control byte of the wire (R80). -/
def Instr.isControl : Instr → Bool
  | .ctrlMore => true
  | .ctrlLast => true
  | .ctrlData => true
  | .init _ _ => false
  | .printChar _ => false
  | .clear => false
  | .clearLine _ => false
  | .clearCurrentLine => false
  | .setCursor _ _ => false
  | .home => false
  | .setInverse _ => false
  | .flip _ => false
  | .setInverseFont _ => false
  | .setPrintMode _ => false
  | .setDisplayColumnOffset _ => false
  | .pageAddress _ => false
  | .columnAddressLow _ => false
  | .columnAddressHigh _ => false
  | .startLine _ => false
  | .modeNormal => false
  | .modeInverse => false
  | .segmentRemapUnflipped => false
  | .segmentRemapFlipped => false
  | .scanDirectionUnflipped => false
  | .scanDirectionFlipped => false

end Sys2Proof
end

