-- ==== Sys2Proof/WellFormed.lean ====
section
/-! DEFINITION. Which terms of `Instr` an encoding exists for. Every operand byte of a host operation is legal (R71, R73; a
value out of range is still a legal word, R75), and the widths of the other operands are their types'. Two wire operands are
narrower than their field: the table fixes bit 3 of `COLUMN_ADDRESS_HIGH` to 0 and bits [2:0] of `START_LINE` to 0. -/

namespace Sys2Proof

/-- R85: "`px[7:4] <= 7`". R86: `v` "is one of 0, 8, 16, 24, 32, 40, 48, 56". -/
def Instr.wf : Instr → Bool
  | .columnAddressHigh nibble => decide (nibble.toNat < 8)
  | .startLine value => decide (value.toNat % 8 = 0)
  | .init _ _ => true
  | .printChar _ => true
  | .clear => true
  | .clearLine _ => true
  | .clearCurrentLine => true
  | .setCursor _ _ => true
  | .home => true
  | .setInverse _ => true
  | .flip _ => true
  | .setInverseFont _ => true
  | .setPrintMode _ => true
  | .setDisplayColumnOffset _ => true
  | .ctrlMore => true
  | .ctrlLast => true
  | .ctrlData => true
  | .pageAddress _ => true
  | .columnAddressLow _ => true
  | .modeNormal => true
  | .modeInverse => true
  | .segmentRemapUnflipped => true
  | .segmentRemapFlipped => true
  | .scanDirectionUnflipped => true
  | .scanDirectionFlipped => true

end Sys2Proof
end

