-- ==== Sys2Proof/Decode.lean ====
section
/-! DEFINITION. The decoder of host command words (30_encoding.md R70 to R74) and of wire bytes (R80 to R93), total and
rejecting by name, and the encoder written from the same tables. The wire constants are parameters (R8), so the wire half
takes the `Config`. -/

namespace Sys2Proof

/-- Why a word or byte is not an instruction. -/
inductive DecodeError where
  /-- R74: `op` is 0x00 or 0x0D to 0xFF. -/
  | unknownOp (op : Byte)
  /-- R74: an operand byte the operation does not use is nonzero. -/
  | unusedOperand (op : Byte)
  /-- R74: the chip operand of `INIT` is not 0 or 1. -/
  | chipSelector (a : Byte)
  /-- The byte stands where a control byte must (R93) and is none of the three of R80. -/
  | notControl (b : Byte)
  /-- The byte stands where an opcode must (R93) and belongs to no row of format WIRE_OP. -/
  | notOpcode (b : Byte)
  /-- The byte is a data byte (R79, R93), not an instruction. -/
  | dataByte (b : Byte)
  /-- The burst has ended (R93): the byte has no place in it. -/
  | afterBurst (b : Byte)
deriving DecidableEq, Repr

/-- `w[23:16]` (R70). -/
def hostOp (w : HostWord) : Byte := w.extractLsb' 16 8

/-- `w[15:8]` (R70). -/
def hostA (w : HostWord) : Byte := w.extractLsb' 8 8

/-- `w[7:0]` (R70). -/
def hostB (w : HostWord) : Byte := w.extractLsb' 0 8

/-- The word with operation code `op` and operand bytes `a`, `b` (R70). -/
def hostWord (op a b : Byte) : HostWord := op ++ a ++ b

/-- An operation without operands: both bytes must be 0 (R71). -/
def decodeNoOperand (op a b : Byte) (i : Instr) : Except DecodeError Instr :=
  if a = 0 ∧ b = 0 then .ok i else .error (.unusedOperand op)

/-- An operation with the first operand only: the second byte must be 0 (R71). -/
def decodeOneOperand (op a b : Byte) (i : Byte → Instr) : Except DecodeError Instr :=
  if b = 0 then .ok (i a) else .error (.unusedOperand op)

/-- `INIT`: the chip selector must be 0 or 1 (R73, R74). -/
def decodeInit (a b : Byte) : Except DecodeError Instr :=
  if a = 0 then .ok (.init .sh1106 b)
  else if a = 1 then .ok (.init .ssd1306 b)
  else .error (.chipSelector a)

/-- Decoding a host command word (R70 to R74). -/
def decodeHost (w : HostWord) : Except DecodeError Instr :=
  let op := hostOp w
  let a := hostA w
  let b := hostB w
  if op = 0x01 then decodeInit a b
  else if op = 0x02 then decodeOneOperand op a b .printChar
  else if op = 0x03 then decodeNoOperand op a b .clear
  else if op = 0x04 then decodeOneOperand op a b .clearLine
  else if op = 0x05 then decodeNoOperand op a b .clearCurrentLine
  else if op = 0x06 then .ok (.setCursor a b)
  else if op = 0x07 then decodeNoOperand op a b .home
  else if op = 0x08 then decodeOneOperand op a b .setInverse
  else if op = 0x09 then decodeOneOperand op a b .flip
  else if op = 0x0A then decodeOneOperand op a b .setInverseFont
  else if op = 0x0B then decodeOneOperand op a b .setPrintMode
  else if op = 0x0C then decodeOneOperand op a b .setDisplayColumnOffset
  else .error (.unknownOp op)

/-- Decoding a byte in control position (R80, R93). -/
def decodeControl (c : Config) (b : Byte) : Except DecodeError Instr :=
  if b = c.ctrlMore then .ok .ctrlMore
  else if b = c.ctrlLast then .ok .ctrlLast
  else if b = c.ctrlData then .ok .ctrlData
  else .error (.notControl b)

/-- Decoding a byte in opcode position: the rows of format WIRE_OP in the table's order, each a base under the row's mask
and an argument in the bits the mask leaves open (R82 to R89). -/
def decodeOpcode (c : Config) (b : Byte) : Except DecodeError Instr :=
  if b &&& 0xF8 = c.opPageAddress then .ok (.pageAddress (b.extractLsb' 0 3))
  else if b &&& 0xF0 = c.opColLow then .ok (.columnAddressLow (b.extractLsb' 0 4))
  else if b &&& 0xF8 = c.opColHigh then .ok (.columnAddressHigh (b.extractLsb' 0 4))
  else if b &&& 0xC7 = c.opStartLine then .ok (.startLine (b.extractLsb' 0 6))
  else if b = c.opModeNormal then .ok .modeNormal
  else if b = c.opModeInverse then .ok .modeInverse
  else if b = c.opSegUnflipped then .ok .segmentRemapUnflipped
  else if b = c.opSegFlipped then .ok .segmentRemapFlipped
  else if b = c.opScanUnflipped then .ok .scanDirectionUnflipped
  else if b = c.opScanFlipped then .ok .scanDirectionFlipped
  else .error (.notOpcode b)

/-- Decoding a wire byte where the receiver stands (R93). -/
def decodeWire (c : Config) (phase : WirePhase) (b : Byte) : Except DecodeError Instr :=
  match phase with
  | .control => decodeControl c b
  | .opcodeMore => decodeOpcode c b
  | .opcodeLast => decodeOpcode c b
  | .data => .error (.dataByte b)
  | .closed => .error (.afterBurst b)

/-- The encoding of a chip operand (R73). -/
def encodeChip : Chip → Byte
  | .sh1106 => 0
  | .ssd1306 => 1

/-- The opcode byte "base | argument" (R82). -/
def opcodeByte (base argument : Byte) : Byte := base ||| argument

/-- The encoding of an instruction: its host word by R70 to R73, or its wire byte by R80 and R83 to R89. -/
def encode (c : Config) : Instr → Encoded
  | .init chip requestedAddress => .host (hostWord 0x01 (encodeChip chip) requestedAddress)
  | .printChar code => .host (hostWord 0x02 code 0)
  | .clear => .host (hostWord 0x03 0 0)
  | .clearLine row => .host (hostWord 0x04 row 0)
  | .clearCurrentLine => .host (hostWord 0x05 0 0)
  | .setCursor line column => .host (hostWord 0x06 line column)
  | .home => .host (hostWord 0x07 0 0)
  | .setInverse flag => .host (hostWord 0x08 flag 0)
  | .flip flag => .host (hostWord 0x09 flag 0)
  | .setInverseFont flag => .host (hostWord 0x0A flag 0)
  | .setPrintMode mode => .host (hostWord 0x0B mode 0)
  | .setDisplayColumnOffset n => .host (hostWord 0x0C n 0)
  | .ctrlMore => .wire c.ctrlMore
  | .ctrlLast => .wire c.ctrlLast
  | .ctrlData => .wire c.ctrlData
  | .pageAddress page => .wire (opcodeByte c.opPageAddress (page.zeroExtend 8))
  | .columnAddressLow nibble => .wire (opcodeByte c.opColLow (nibble.zeroExtend 8))
  | .columnAddressHigh nibble => .wire (opcodeByte c.opColHigh (nibble.zeroExtend 8))
  | .startLine value => .wire (opcodeByte c.opStartLine (value.zeroExtend 8))
  | .modeNormal => .wire c.opModeNormal
  | .modeInverse => .wire c.opModeInverse
  | .segmentRemapUnflipped => .wire c.opSegUnflipped
  | .segmentRemapFlipped => .wire c.opSegFlipped
  | .scanDirectionUnflipped => .wire c.opScanUnflipped
  | .scanDirectionFlipped => .wire c.opScanFlipped

/-- Decoding an encoding: a host word by itself, a wire byte at the receiver's position. -/
def decode (c : Config) (phase : WirePhase) : Encoded → Except DecodeError Instr
  | .host w => decodeHost w
  | .wire b => decodeWire c phase b

/-- The position at which a lone wire byte is taken as an instruction: as a control byte where it is one, as an opcode
otherwise. With the default parameters 0x00 and 0x40 are both a control byte and an opcode (R86); this order gives them to
the control bytes, whose only word they are (DESIGN CHOICE, log entry 14). -/
def lonePhase (c : Config) (b : Byte) : WirePhase :=
  match decodeControl c b with
  | .ok _ => .control
  | .error _ => .opcodeMore

/-- The instruction of a word numbered as spec/opcode_table.json numbers it: 24 bits are a host command word, 8 bits a wire
byte under the default parameters, whose values the table lists. -/
def decodeTableWord (nbits w : Nat) : Option Instr :=
  if nbits = 24 then (decodeHost (BitVec.ofNat 24 w)).toOption
  else if nbits = 8 then
    (decodeWire Config.default (lonePhase Config.default (BitVec.ofNat 8 w)) (BitVec.ofNat 8 w)).toOption
  else none

end Sys2Proof
end

