-- ==== Sys2Proof/Machine/State.lean ====
section
/-! DEFINITION. The state of the machine (10_state.md): the eleven registers of the block, its parameters, what the
environment is going to present at its ports, the record of its transport writes, and the controller at the far end of the
transport port as far as the spec describes it (R37, R57, R83 to R89). Plain data throughout. -/

namespace Sys2Proof.Machine

/-- The values of `status` (R30): 0, 1, 2 in this order. -/
inductive Status where
  | ok
  | invalidAddress
  | deviceNotFound
deriving DecidableEq, Repr

/-- The error kinds of R180. -/
inductive ErrorKind where
  | invalidAddress
  | deviceNotFound
  | transportError
deriving DecidableEq, Repr

/-- One transport write with its answer (R51, R67): what an observer of the block sees. -/
structure TxWrite where
  /-- The bus address. -/
  addr : Byte
  /-- The bytes, in transmission order; none for a probe (R54). -/
  bytes : List Byte
  /-- The timeout handed to the transport, the constant `TX_TIMEOUT`. -/
  timeout : Nat
  /-- The transport's answer: true for `ok`, false for `fail`. -/
  ok : Bool
deriving DecidableEq, Repr

/-- One event the outside world causes, between operations (R33, R50: the order in which the host presents operations is
the program order). -/
inductive PortEvent where
  /-- The host presents a command word (R50). -/
  | op (w : HostWord)
  /-- The block is reset between operations (R200). -/
  | reset
  /-- The host presents a command word and the block is reset while the operation is in progress (R200), once that many of its
  transport writes have been made. -/
  | opReset (w : HostWord) (writes : Nat)
  /-- Another agent on the bus sends the controller a byte (R207). -/
  | busByte (b : Byte)
  /-- That agent ends its burst. -/
  | busStop
  /-- The controller is reset or loses power (R207). -/
  | controllerReset
deriving DecidableEq, Repr

/-- Memory as address and byte pairs; `Machine/Memory.lean` holds its operations and its canonical form. -/
abbrev Memory := List Host.Cell

/-- The display controller as far as the spec describes it: the state "that the block changes but does not mirror" (R37).
No operation of the block reads any of it (R53). -/
structure Panel where
  /-- Where the receiver stands inside a burst (R93). -/
  phase : WirePhase
  /-- The page pointer (R57, R83). -/
  page : BitVec 3
  /-- The high nibble of the pixel column pointer (R57, R85). -/
  columnHigh : BitVec 4
  /-- The low nibble of the pixel column pointer (R57, R84). -/
  columnLow : BitVec 4
  /-- The display start line (R86). -/
  startLine : BitVec 6
  /-- Whole-panel inversion (R87). -/
  inverse : Bool
  /-- The segment-remap setting is the flipped one (R88). -/
  segFlipped : Bool
  /-- The scan-direction setting is the flipped one (R89). -/
  scanFlipped : Bool
  /-- The display RAM (R56, R57): the bytes the spec says are there. A byte not listed is not known. -/
  ram : Memory
  /-- The model's own counter of the free values drawn for the controller so far. -/
  draws : Nat
deriving DecidableEq, Repr

/-- The state. The first eleven fields are the registers of R21 to R31. -/
structure State where
  /-- `chip` (R21). -/
  chip : Chip
  /-- `address` (R22). -/
  address : BitVec 8
  /-- `connected` (R23). -/
  connected : Bool
  /-- `line` (R24). -/
  line : BitVec 3
  /-- `column` (R25), 0 to 16: 16 is "line just filled, wrap pending". -/
  column : BitVec 5
  /-- `lineOffset` (R26). -/
  lineOffset : BitVec 3
  /-- `columnOffset` (R27). -/
  columnOffset : BitVec 2
  /-- `printMode` (R28). -/
  printMode : PrintMode
  /-- `inverseFont` (R29). -/
  inverseFont : Bool
  /-- `status` (R30). -/
  status : Status
  /-- `txerr` (R31). -/
  txerr : Bool
  /-- The parameters of R8 this block was built with. Not state (R35): they stand here because `step` takes nothing but a
  State, and no step writes them. -/
  cfg : Config
  /-- What the outside world is going to do at the ports, in order. The block has no queue (R205): this is the world's
  list, of which it takes one entry a step. -/
  inputs : List PortEvent
  /-- The transport's answers to the next writes, in order (R52). Past its end each answer is a free value. -/
  answers : List Bool
  /-- Every transport write made so far, oldest first (R67). -/
  tx : List TxWrite
  /-- The controller (R37). -/
  panel : Panel
deriving DecidableEq, Repr

/-- No fault exists: "There is no trap" (R183), and every operation terminates (R214). -/
inductive Fault where
deriving DecidableEq, Repr

/-- Why a step has no meaning. -/
inductive Refusal where
  /-- Raised by `exec` for an instruction that is not modelled. No arm does so. Safe: the model stops where the hardware
  goes on. -/
  | notModelled (mnemonic : String)
deriving DecidableEq, Repr

/-- The controller when the machine starts. The spec says nothing of it (R200: "keeps whatever state it has"); zero
everywhere and no RAM byte known (DESIGN CHOICE, log entry 3). -/
def Panel.reset : Panel where
  phase := .control
  page := 0
  columnHigh := 0
  columnLow := 0
  startLine := 0
  inverse := false
  segFlipped := false
  scanFlipped := false
  ram := []
  draws := 0

/-- The machine right after reset under given parameters (R39), with nothing presented and nothing sent. -/
def State.resetWith (c : Config) : State where
  chip := .sh1106
  address := 0x00
  connected := false
  line := 0
  column := 0
  lineOffset := 0
  columnOffset := 0
  printMode := c.resetPrintMode
  inverseFont := false
  status := .ok
  txerr := false
  cfg := c
  inputs := []
  answers := []
  tx := []
  panel := Panel.reset

/-- The machine right after reset, with the default parameters of R8. -/
def State.reset : State := State.resetWith Config.default

end Sys2Proof.Machine
end

