-- ==== Sys2Proof/Machine/Flags.lean ====
section
/-! DEFINITION. The two flags, `status` and `txerr`, and `raise`: what stands in this hardware where others take an
exception. "There is no trap": `raise` is "exactly the register write in the recorded-where column of rule R181"
(60_exceptions.md R181, R183); there is nothing to save, nowhere to go and nothing to return from. -/

namespace Sys2Proof.Machine

/-- The code numbers of R181; code 3 is never stored. -/
def ErrorKind.code : ErrorKind → Nat
  | .invalidAddress => 1
  | .deviceNotFound => 2
  | .transportError => 3

/-- `raise <Error>` (R181, R183). -/
def State.raiseError : ErrorKind → State → State
  | .invalidAddress, s => { s with status := .invalidAddress }
  | .deviceNotFound, s => { s with status := .deviceNotFound }
  | .transportError, s => { s with txerr := true }

end Sys2Proof.Machine
end

