-- ==== Sys2Proof/Machine/Profile.lean ====
section
/-! DEFINITION. The constants of the block (00_scope.md R6) and the per-chip profile (R7, 42_facade.md R150). -/

namespace Sys2Proof.Machine

/-- `MAX_TEXT_LINES` = `ROWS` (R6, R32). -/
def maxTextLines : Nat := 8

/-- `MAX_TEXT_COLUMNS` = `COLS` (R6, R32). -/
def maxTextColumns : Nat := 16

/-- `ROW_H` (R6): the pixel height of a text row, one page. -/
def rowHeight : Nat := 8

/-- `GLYPH_BYTES` (R6). -/
def glyphBytes : Nat := 8

/-- `CODE_LO` (R6). -/
def codeLo : Nat := 32

/-- `CODE_HI` (R6). -/
def codeHi : Nat := 127

/-- `COL_OFFSET_MAX` (R6). -/
def colOffsetMax : Nat := 3

/-- `WIDTH(chip)` (R7). -/
def chipWidth : Chip → Nat
  | .sh1106 => 132
  | .ssd1306 => 128

/-- `SWEEP_BURSTS(chip)` (R7). -/
def sweepBursts : Chip → Nat
  | .sh1106 => 6
  | .ssd1306 => 8

/-- `SWEEP_BYTES(chip)` (R7). -/
def sweepBytes : Chip → Nat
  | .sh1106 => 22
  | .ssd1306 => 16

/-- `DEFAULT_COL_OFFSET(chip)` (R7): "forced to 0 for SSD1306". -/
def defaultColOffset (c : Config) : Chip → BitVec 2
  | .sh1106 => c.defaultColOffsetSH1106
  | .ssd1306 => 0

/-- `POWER_ON_BURSTS(chip)` (R7, R153). -/
def powerOnBursts (c : Config) : Chip → List PowerOnBurst
  | .sh1106 => c.powerOnSH1106
  | .ssd1306 => c.powerOnSSD1306

/-- `Glyph(code)` (R55): entry `code - 32` of the glyph table, a free glyph where the table has none. -/
def glyphOf (c : Config) (code : Byte) : Glyph :=
  (c.glyphTable[code.toNat - codeLo]?).getD (Config.freeGlyph code.toNat)

/-- The bytes of a glyph, `g0` first (R55, R59). -/
def glyphToList (g : Glyph) : List Byte := [g.g0, g.g1, g.g2, g.g3, g.g4, g.g5, g.g6, g.g7]

end Sys2Proof.Machine
end

