-- ==== Sys2Proof/Machine/Operands.lean ====
section
/-! DEFINITION. The operand forms of the host operations (30_encoding.md R71, R73, R75; 40_cursor_engine.md R105): what an
operand byte stands for, none where it is out of range. -/

namespace Sys2Proof.Machine

/-- A bool: "0 = false, any nonzero value = true" (R73). -/
def boolOperand (b : Byte) : Bool := b != 0

/-- A line or row: 0 to 7 in range (R73). -/
def lineOperand (b : Byte) : Option (BitVec 3) := if b.toNat < maxTextLines then some (b.truncate 3) else none

/-- A column: 0 to 15 in range (R73). -/
def columnOperand (b : Byte) : Option (BitVec 4) := if b.toNat < maxTextColumns then some (b.truncate 4) else none

/-- A print mode: 0, 1, 2; 3 to 255 out of range (R73). -/
def printModeOperand (b : Byte) : Option PrintMode :=
  if b = 0 then some .overwriteSameLine
  else if b = 1 then some .overwriteNextLine
  else if b = 2 then some .scrollLine
  else none

/-- A display column offset: 0 to 3 in range (R73). -/
def offsetOperand (b : Byte) : Option (BitVec 2) := if b.toNat ≤ colOffsetMax then some (b.truncate 2) else none

/-- The classes of a character code (R105). -/
inductive CharClass where
  | newline
  | printable
  | ignored
deriving DecidableEq, Repr

/-- R105, "a total function of the byte". `'\n'` is 0x0A (decision D23). -/
def charClass (code : Byte) : CharClass :=
  if code = 0x0A then .newline
  else if codeLo ≤ code.toNat ∧ code.toNat < codeHi then .printable
  else .ignored

/-- Whether a requested address is one of `ADDR_A`, `ADDR_B`, `ADDR_AUTO` (R73, R151). -/
def addressAllowed (c : Config) (req : Byte) : Bool := req = c.addrA || req = c.addrB || req = c.addrAuto

/-- The addresses `INIT` probes, in order (R151): "On AUTO, probe address A then B". -/
def probeCandidates (c : Config) (req : Byte) : List Byte := if req = c.addrAuto then [c.addrA, c.addrB] else [req]

end Sys2Proof.Machine
end

