-- ==== Sys2Proof/Machine/Memory.lean ====
section
/-! DEFINITION. The display RAM as a list of address and byte pairs (20_memory.md R56, R57). Canonical form: addresses
strictly rising. An address that is not listed reads as none, "not known", so no entry can equal it. The block has no memory of
its own and never reads this one (R53). -/

namespace Sys2Proof.Machine

/-- The byte at an address, none where it is not known. -/
def Memory.read : Memory → Nat → Option Byte
  | [], _ => none
  | c :: m, a => if c.1 = a then some c.2 else Memory.read m a

/-- Storing one byte, in address order. -/
def Memory.write : Memory → Nat → Byte → Memory
  | [], a, b => [(a, b)]
  | c :: m, a, b =>
    if a < c.1 then (a, b) :: c :: m
    else if a = c.1 then (a, b) :: m
    else c :: Memory.write m a b

/-- The canonical form: addresses strictly rising. -/
abbrev Memory.wf (m : Memory) : Prop := m.Pairwise fun x y => x.1 < y.1

/-- The address of the RAM byte at (page, pixel column) (R57): 256 addresses a page, of which the first `WIDTH(chip)`
exist. -/
def ramAddress (page : BitVec 3) (column : BitVec 8) : Nat := page.toNat * 256 + column.toNat

end Sys2Proof.Machine
end

