-- ==== Sys2Proof/Machine/Panel.lean ====
section
/-! DEFINITION. What the controller does with the bytes it receives, as far as the spec says (20_memory.md R57,
30_encoding.md R83 to R89, R93, 70_reset_and_hazards.md R207). The controller is outside the block (R5) and nothing of it is
read back (R53), so nothing here bears on what the block does; all of it is marked in log entries 3 to 8 and 20. -/

namespace Sys2Proof.Machine

/-- The pixel column pointer (R57), set one nibble at a time (R84, R85). -/
def Panel.column (p : Panel) : BitVec 8 := p.columnHigh ++ p.columnLow

/-- The pixel column pointer set whole. -/
def Panel.setColumn (column : BitVec 8) (p : Panel) : Panel :=
  { p with columnHigh := column.extractLsb' 4 4, columnLow := column.extractLsb' 0 4 }

/-- The receiver moved to a position in the burst. -/
def Panel.atPhase (phase : WirePhase) (p : Panel) : Panel := { p with phase := phase }

/-- The controller after something whose effect on it the spec does not give (U4, U17): its registers are free values, no
byte of its RAM is known. -/
def Panel.unknown (p : Panel) : Panel where
  phase := p.phase
  page := Config.freePage p.draws
  columnHigh := (Config.freeColumn p.draws).extractLsb' 4 4
  columnLow := (Config.freeColumn p.draws).extractLsb' 0 4
  startLine := Config.freeStartLine p.draws
  inverse := Config.freeInverse p.draws
  segFlipped := Config.freeSegFlipped p.draws
  scanFlipped := Config.freeScanFlipped p.draws
  ram := []
  draws := p.draws + 1

/-- The controller after a write of which an unknown part arrived (R185, U4): its registers are free values, no byte of its RAM
is known, and the write being over its receiver is at the start of a burst. The spec says nothing of the receiver then (DESIGN
CHOICE, log entry 5). -/
def Panel.lost (p : Panel) : Panel := p.unknown.atPhase .control

/-- Where the receiver stands after an opcode (R93): another control byte after `CTRL_MORE`, the end of the burst after
`CTRL_LAST`. -/
def phaseAfterOpcode : WirePhase → WirePhase
  | .opcodeMore => .control
  | .opcodeLast => .closed
  | .control => .closed
  | .data => .closed
  | .closed => .closed

/-- An opcode has been received: its effect, then the next position. -/
def Panel.afterOpcode (p : Panel) : Panel := p.atPhase (phaseAfterOpcode p.phase)

/-- `CTRL_MORE` "is followed by exactly one opcode byte and another control byte" (R93). -/
def Panel.ctrlMore (p : Panel) : Panel := p.atPhase .opcodeMore

/-- `CTRL_LAST` "is followed by exactly one opcode byte, which ends the burst" (R93). -/
def Panel.ctrlLast (p : Panel) : Panel := p.atPhase .opcodeLast

/-- `CTRL_DATA` "is followed by data bytes to the end of the burst" (R93). -/
def Panel.ctrlData (p : Panel) : Panel := p.atPhase .data

/-- R83: "Sets the controller's page pointer." -/
def Panel.pageAddress (page : BitVec 3) (p : Panel) : Panel := { p with page := page }.afterOpcode

/-- R84: the low nibble of the target pixel column. That the pointer's low nibble changes at once and the high one stays is the
model's choice (PRESUMED, log entry 20). -/
def Panel.columnAddressLow (nibble : BitVec 4) (p : Panel) : Panel :=
  { p with columnLow := nibble }.afterOpcode

/-- R85: the high nibble of the target pixel column. That the pointer's high nibble changes at once and the low one stays is the
model's choice (PRESUMED, log entry 20). -/
def Panel.columnAddressHigh (nibble : BitVec 4) (p : Panel) : Panel :=
  { p with columnHigh := nibble }.afterOpcode

/-- R86: "Writes a hardware display start line register". -/
def Panel.setStartLine (value : BitVec 6) (p : Panel) : Panel := { p with startLine := value }.afterOpcode

/-- R87: the opcodes "switch whole-panel hardware pixel inversion". -/
def Panel.setInverse (inverse : Bool) (p : Panel) : Panel := { p with inverse := inverse }.afterOpcode

/-- R88: the segment-remap setting. -/
def Panel.setSegment (flipped : Bool) (p : Panel) : Panel := { p with segFlipped := flipped }.afterOpcode

/-- R89: the scan-direction setting. -/
def Panel.setScan (flipped : Bool) (p : Panel) : Panel := { p with scanFlipped := flipped }.afterOpcode

/-- A data byte (R57): it goes to the RAM byte the pointers name, and the column pointer advances by one within the page
(PRESUMED, G8). Past the last pixel column the spec does not say what happens (R207, R209). -/
def Panel.dataByte (width : Nat) (b : Byte) (p : Panel) : Panel :=
  if p.column.toNat < width then
    { p with ram := p.ram.write (ramAddress p.page p.column) b }.setColumn (p.column + 1)
  else p.unknown

/-- A byte that is no instruction where it stands: a data byte in a data burst; elsewhere its effect is not given. Where an
opcode stands the byte is the "exactly one opcode byte" of R93, so the receiver moves on as after any opcode. Where a control byte
stands, or after the end, R93 gives the rest of the burst no meaning. -/
def Panel.otherByte (width : Nat) (b : Byte) (p : Panel) : Panel :=
  match p.phase with
  | .data => p.dataByte width b
  | .opcodeMore => p.unknown.afterOpcode
  | .opcodeLast => p.unknown.afterOpcode
  | .control => p.unknown.atPhase .closed
  | .closed => p.unknown.atPhase .closed

/-- The effect of a wire instruction on the controller. A host operation never comes over the wire. -/
def wireEffect : Instr → Panel → Panel
  | .ctrlMore, p => p.ctrlMore
  | .ctrlLast, p => p.ctrlLast
  | .ctrlData, p => p.ctrlData
  | .pageAddress page, p => p.pageAddress page
  | .columnAddressLow nibble, p => p.columnAddressLow nibble
  | .columnAddressHigh nibble, p => p.columnAddressHigh nibble
  | .startLine value, p => p.setStartLine value
  | .modeNormal, p => p.setInverse false
  | .modeInverse, p => p.setInverse true
  | .segmentRemapUnflipped, p => p.setSegment false
  | .segmentRemapFlipped, p => p.setSegment true
  | .scanDirectionUnflipped, p => p.setScan false
  | .scanDirectionFlipped, p => p.setScan true
  | .init _ _, p => p
  | .printChar _, p => p
  | .clear, p => p
  | .clearLine _, p => p
  | .clearCurrentLine, p => p
  | .setCursor _ _, p => p
  | .home, p => p
  | .setInverse _, p => p
  | .flip _, p => p
  | .setInverseFont _, p => p
  | .setPrintMode _, p => p
  | .setDisplayColumnOffset _, p => p

/-- One byte of a burst arrives: it is decoded where the receiver stands (R93). -/
def Panel.receive (c : Config) (width : Nat) (p : Panel) (b : Byte) : Panel :=
  match decodeWire c p.phase b with
  | .ok i => wireEffect i p
  | .error _ => p.otherByte width b

/-- A whole burst arrives (R62: "the transport sees the burst as one write"). -/
def Panel.deliver (c : Config) (width : Nat) (bytes : List Byte) (p : Panel) : Panel :=
  (bytes.foldl (Panel.receive c width) (p.atPhase .control)).atPhase .control

/-- What a write does to the controller: an `ok` one is received (R57, R93), what part of a failed one arrived is unknown (R185,
U4). A probe carries no byte, so a failed one (R54) leaves the controller, its receiver included, as it is (DESIGN CHOICE, log
entry 7). `c` and `width` are the block's parameters and its chip's width. -/
def Panel.arrive (c : Config) (width : Nat) (ok : Bool) (bytes : List Byte) (p : Panel) : Panel :=
  if ok then p.deliver c width bytes
  else if bytes = [] then p
  else p.lost

/-- What a recorded write did to the controller. -/
def Panel.feed (c : Config) (width : Nat) (p : Panel) (e : TxWrite) : Panel := p.arrive c width e.ok e.bytes

/-! ## The power-on bursts

The bytes of a power-on burst are told apart as command or argument by the table (R153), which the controller knows and the wire
does not show. -/

/-- The controller after a power-on byte whose effect the spec does not give (R90, R153): free values, but for the orientation,
which the opcodes of R88 and R89 alone set (DEDUCED from R168, log entry 6). -/
def Panel.configured (p : Panel) : Panel :=
  { p.unknown with segFlipped := p.segFlipped, scanFlipped := p.scanFlipped }

/-- A byte of a power-on table (R153): a command of the table of R83 to R89 has its effect. -/
def Panel.powerOnByte (c : Config) (p : Panel) (x : PowerOnByte) : Panel :=
  if x.isArgument then p.configured
  else
    match decodeOpcode c x.byte with
    | .ok i => wireEffect i p
    | .error _ => p.configured

/-- A power-on burst arrives. -/
def Panel.powerOn (c : Config) (b : PowerOnBurst) (p : Panel) : Panel :=
  (b.bytes.foldl (Panel.powerOnByte c) p).atPhase .control

/-- What the write of a power-on burst does to the controller: as any write, its bytes told apart by the table. -/
def Panel.arrivePowerOn (c : Config) (b : PowerOnBurst) (ok : Bool) (p : Panel) : Panel := if ok then p.powerOn c b else p.lost

/-- What a recorded write of a power-on burst did to the controller. -/
def Panel.feedPowerOn (c : Config) (p : Panel) (x : PowerOnBurst × TxWrite) : Panel := p.arrivePowerOn c x.1 x.2.ok

end Sys2Proof.Machine
end

