-- ==== Sys2Proof/Machine/Ops.lean ====
section
/-! DEFINITION. The primitives of the pseudocode (00_scope.md R11) and the internal procedures that several operations
share: the transport write, the framing of bursts, the probe, cursor positioning, the scroll window, the clear sweep, the line
advance and the glyph serializer. -/

namespace Sys2Proof.Machine

/-! ## Writing the cursor registers -/

/-- `line <- l` (R24). -/
def State.lineAt (l : BitVec 3) (s : State) : State := { s with line := l }

/-- `column <- c` (R25). -/
def State.columnAt (c : BitVec 5) (s : State) : State := { s with column := c }

/-- `lineOffset <- o` (R26). -/
def State.windowAt (o : BitVec 3) (s : State) : State := { s with lineOffset := o }

/-! ## The transport port -/

/-- The answer the transport gives to the block's `k`-th write from here, `k = 0` the next one (R52): what the
environment's list says, a free value past its end. -/
def State.answerAt (s : State) (k : Nat) : Bool := (s.answers[k]?).getD (Config.freeAnswer (s.tx.length + k))

/-- The answer to the next write. -/
def State.nextAnswer (s : State) : Bool := s.answerAt 0

/-- The controller after the next write (a failed probe: log entry 7). -/
def State.panelAfter (s : State) (bytes : List Byte) : Panel :=
  s.panel.arrive s.cfg (chipWidth s.chip) s.nextAnswer bytes

/-- `TxWrite(addr, bytes)` (R51): one write, handed `TX_TIMEOUT`; the answer it gets is `nextAnswer`. -/
def State.txWrite (addr : Byte) (bytes : List Byte) (s : State) : State :=
  { s with
    answers := s.answers.tail
    tx := s.tx ++ [{ addr := addr, bytes := bytes, timeout := s.cfg.txTimeout, ok := s.nextAnswer }]
    panel := s.panelAfter bytes }

/-- A burst: one write to `address`; "if `r = fail` then `txerr <- 1`" (R78, R79), and nothing else changes (R185). -/
def State.emit (bytes : List Byte) (s : State) : State :=
  if s.nextAnswer then s.txWrite s.address bytes
  else (s.txWrite s.address bytes).raiseError .transportError

/-! ## Framing -/

/-- The bytes of a command burst (R78): every opcode but the last preceded by `CTRL_MORE`, the last by `CTRL_LAST`. -/
def frameCmd (c : Config) (b : CmdBurst) : List Byte :=
  b.front.flatMap (fun o => [c.ctrlMore, o]) ++ [c.ctrlLast, b.last]

/-- The bytes of a data burst (R79). -/
def frameData (c : Config) (ds : List Byte) : List Byte := c.ctrlData :: ds

/-- `EmitCmdBurst(ops)` (R78). -/
def State.emitCmdBurst (b : CmdBurst) (s : State) : State := s.emit (frameCmd s.cfg b)

/-- `EmitDataBurst(ds)` (R79). -/
def State.emitDataBurst (ds : List Byte) (s : State) : State := s.emit (frameData s.cfg ds)

/-- `Probe(a)` (R152): the zero-length write of R54. Its result is `nextAnswer`; `txerr` is not touched. -/
def State.probe (a : Byte) (s : State) : State := s.txWrite a []

/-- Probing addresses in order until one answers: the address, if any, and the state after the probes (R151). -/
def probeFirst : List Byte → State → Option Byte × State
  | [], s => (none, s)
  | a :: rest, s => if s.nextAnswer then (some a, s.probe a) else probeFirst rest (s.probe a)

/-! ## Cursor positioning (41_command_encoder.md) -/

/-- `physical_page = (logical_line + lineOffset) mod ROWS` (R133). -/
def physicalPage (lineOffset l : BitVec 3) : BitVec 3 := l + lineOffset

/-- `px = c * 8 + columnOffset` (R134). -/
def pixelColumn (c : BitVec 4) (columnOffset : BitVec 2) : BitVec 8 := c.zeroExtend 8 * 8 + columnOffset.zeroExtend 8

/-- `PosOps(l, px)` (R132): the three positioning opcodes, page, low nibble, high nibble. -/
def posOps (c : Config) (lineOffset l : BitVec 3) (px : BitVec 8) : CmdBurst where
  front :=
    [opcodeByte c.opPageAddress ((physicalPage lineOffset l).zeroExtend 8),
     opcodeByte c.opColLow ((px.extractLsb' 0 4).zeroExtend 8)]
  last := opcodeByte c.opColHigh ((px.extractLsb' 4 4).zeroExtend 8)

/-- `Position(l, c)` (R131). -/
def State.position (l : BitVec 3) (c : BitVec 4) (s : State) : State :=
  s.emitCmdBurst (posOps s.cfg s.lineOffset l (pixelColumn c s.columnOffset))

/-- `SetCursorBody(l, c)` (R137). -/
def State.setCursorBody (l : BitVec 3) (c : BitVec 4) (s : State) : State :=
  ((s.lineAt l).columnAt (c.zeroExtend 5)).position l c

/-! ## The scroll window -/

/-- The start-line value `lineOffset * ROW_H` (R86). -/
def startLineValue (lineOffset : BitVec 3) : BitVec 6 := lineOffset.zeroExtend 6 * BitVec.ofNat 6 rowHeight

/-- The one-opcode burst that writes the start-line register (R86). -/
def startLineBurst (c : Config) (lineOffset : BitVec 3) : CmdBurst where
  front := []
  last := opcodeByte c.opStartLine ((startLineValue lineOffset).zeroExtend 8)

/-- `lineOffset <- o` and then the start-line burst with the new value (R135, R163). -/
def State.setLineOffset (o : BitVec 3) (s : State) : State :=
  (s.windowAt o).emitCmdBurst (startLineBurst s.cfg o)

/-- `ScrollOne()` (R135): `(lineOffset + 1) mod ROWS`. -/
def State.scrollOne (s : State) : State := s.setLineOffset (s.lineOffset + 1)

/-! ## The clear sweep (42_facade.md) -/

/-- The pixel column a sweep starts at (R160). -/
def sweepStart (c : Config) (columnOffset : BitVec 2) : BitVec 8 :=
  match c.clearSweepStart with
  | .zero => 0
  | .columnOffset => columnOffset.zeroExtend 8

/-- `n` sweep bursts, each `EmitDataBurst(zeros(SWEEP_BYTES(chip)))` (R160). -/
def State.sweep : Nat → State → State
  | 0, s => s
  | n + 1, s => State.sweep n (s.emitDataBurst (List.replicate (sweepBytes s.chip) 0))

/-- `ClearLineBody(row)` (R160). -/
def State.clearLineBody (row : BitVec 3) (s : State) : State :=
  let s := s.emitCmdBurst (posOps s.cfg s.lineOffset row (sweepStart s.cfg s.columnOffset))
  let s := s.sweep (sweepBursts s.chip)
  ((s.lineAt row).columnAt 0).position row 0

/-- `ClearLineBody(r)` for each row of a list, in order. -/
def State.clearRows : List (BitVec 3) → State → State
  | [], s => s
  | r :: rows, s => State.clearRows rows (s.clearLineBody r)

/-- `ClearBody()` (R163). -/
def State.clearBody (s : State) : State :=
  let s := s.clearRows [0, 1, 2, 3, 4, 5, 6, 7]
  let s := s.setLineOffset 0
  s.setCursorBody 0 0

/-! ## The line advance and the glyph serializer (40_cursor_engine.md) -/

/-- The policy table of R101: what a line advance does to `line` and the scroll window. The home wrap is the 3-bit
register's own (R24). -/
def State.advanceLine (forced : Bool) (s : State) : State :=
  match s.printMode with
  | .scrollLine => if s.line = 7 then s.scrollOne else s.lineAt (s.line + 1)
  | .overwriteNextLine => s.lineAt (s.line + 1)
  | .overwriteSameLine => if forced then s.lineAt (s.line + 1) else s

/-- `NextLine(forced)` (R101). -/
def State.nextLine (forced : Bool) (s : State) : State :=
  let s := s.advanceLine forced
  let s := (s.columnAt 0).position s.line 0
  match s.printMode with
  | .scrollLine => s.clearLineBody s.line
  | .overwriteNextLine => s
  | .overwriteSameLine => s

/-- The bytes a glyph is sent as: each complemented when `inverseFont` is set, order kept (R106). -/
def serialize (inverse : Bool) (g : Glyph) : List Byte :=
  if inverse then (glyphToList g).map (fun b => ~~~b) else glyphToList g

/-- `RenderGlyph(code)` (R106). -/
def State.renderGlyph (code : Byte) (s : State) : State :=
  s.emitDataBurst (serialize s.inverseFont (glyphOf s.cfg code))

/-! ## The gate -/

/-- `if connected = 0 then return` (R186). -/
def State.gated (body : State → State) (s : State) : State := if s.connected then body s else s

end Sys2Proof.Machine
end

