-- ==== Sys2Proof/Machine/Cursor.lean ====
section
/-! DEFINITION. The cursor engine's operations (40_cursor_engine.md): PRINT_CHAR, SET_INVERSE_FONT, SET_PRINT_MODE. -/

namespace Sys2Proof.Machine

/-- A printable code (R104): the pending wrap first, then the glyph, then the column. -/
def State.printGlyph (code : Byte) (s : State) : State :=
  let s := if maxTextColumns ≤ s.column.toNat then s.nextLine false else s
  let s := s.renderGlyph code
  s.columnAt (s.column + 1)

/-- The body of PRINT_CHAR behind the gate (R104, R105). -/
def State.printCharBody (code : Byte) (s : State) : State :=
  match charClass code with
  | .newline => s.nextLine true
  | .printable => s.printGlyph code
  | .ignored => s

/-- PRINT_CHAR (R104). -/
def execPrintChar (code : Byte) (s : State) : Host.Outcome State Fault Refusal :=
  .next (s.gated (fun s => s.printCharBody code))

/-- SET_INVERSE_FONT (R111): no write (decision D22). -/
def execSetInverseFont (flag : Byte) (s : State) : Host.Outcome State Fault Refusal :=
  .next (s.gated (fun s => { s with inverseFont := boolOperand flag }))

/-- SET_PRINT_MODE (R110): no write (decision D22); a mode out of range has no effect (R75). -/
def execSetPrintMode (mode : Byte) (s : State) : Host.Outcome State Fault Refusal :=
  .next (s.gated (fun s =>
    match printModeOperand mode with
    | some m => { s with printMode := m }
    | none => s))

end Sys2Proof.Machine
end

