-- ==== Sys2Proof/Machine/Encoder.lean ====
section
/-! DEFINITION. The operations that only position the cursor (41_command_encoder.md): SET_CURSOR, HOME. -/

namespace Sys2Proof.Machine

/-- SET_CURSOR (R138): an operand out of range has no effect (R75). -/
def execSetCursor (line column : Byte) (s : State) : Host.Outcome State Fault Refusal :=
  .next (s.gated (fun s =>
    match lineOperand line, columnOperand column with
    | some l, some c => s.setCursorBody l c
    | some _, none => s
    | none, some _ => s
    | none, none => s))

/-- HOME (R139): the logical cell (0, 0); `lineOffset` stays. -/
def execHome (s : State) : Host.Outcome State Fault Refusal :=
  .next (s.gated (fun s => s.setCursorBody 0 0))

end Sys2Proof.Machine
end

