-- ==== Sys2Proof/Machine/Facade.lean ====
section
/-! DEFINITION. The facade operations (42_facade.md): INIT, the clear family, SET_INVERSE, FLIP,
SET_DISPLAY_COLUMN_OFFSET. -/

namespace Sys2Proof.Machine

/-- One power-on burst (R153): a command burst like any other for the block and its port. In the controller its bytes are
commands and arguments. -/
def State.emitPowerOnBurst (b : PowerOnBurst) (s : State) : State :=
  { s.emitCmdBurst b.toCmd with panel := s.panel.arrivePowerOn s.cfg b s.nextAnswer }

/-- The power-on bursts in order (R153). -/
def State.emitPowerOn : List PowerOnBurst → State → State
  | [], s => s
  | b :: rest, s => State.emitPowerOn rest (s.emitPowerOnBurst b)

/-- INIT once a device has answered at `sel` (R151). -/
def State.initConnected (chip : Chip) (sel : Byte) (s : State) : State :=
  let s := { s with
    chip := chip
    address := sel
    columnOffset := defaultColOffset s.cfg chip
    connected := true
    status := .ok }
  let s := s.emitPowerOn (powerOnBursts s.cfg chip)
  let s := s.setCursorBody 0 0
  s.clearBody

/-- The body of INIT (R151), not gated: `connected` falls on entry (decision D9), the address is checked before any probe
(decision D10). -/
def State.initBody (chip : Chip) (req : Byte) (s : State) : State :=
  let s := { s with connected := false }
  if addressAllowed s.cfg req then
    match probeFirst (probeCandidates s.cfg req) s with
    | (some sel, s) => s.initConnected chip sel
    | (none, s) => s.raiseError .deviceNotFound
  else s.raiseError .invalidAddress

/-- INIT (R151). -/
def execInit (chip : Chip) (requestedAddress : Byte) (s : State) : Host.Outcome State Fault Refusal :=
  .next (s.initBody chip requestedAddress)

/-- CLEAR (R164). -/
def execClear (s : State) : Host.Outcome State Fault Refusal :=
  .next (s.gated State.clearBody)

/-- CLEAR_LINE (R161): a row out of range has no effect (R75). -/
def execClearLine (row : Byte) (s : State) : Host.Outcome State Fault Refusal :=
  .next (s.gated (fun s =>
    match lineOperand row with
    | some r => s.clearLineBody r
    | none => s))

/-- CLEAR_CURRENT_LINE (R162). -/
def execClearCurrentLine (s : State) : Host.Outcome State Fault Refusal :=
  .next (s.gated (fun s => s.clearLineBody s.line))

/-- SET_INVERSE (R165): a panel mode, which the block does not store (R37). -/
def execSetInverse (flag : Byte) (s : State) : Host.Outcome State Fault Refusal :=
  .next (s.gated (fun s =>
    if boolOperand flag then s.emitCmdBurst { front := [], last := s.cfg.opModeInverse }
    else s.emitCmdBurst { front := [], last := s.cfg.opModeNormal }))

/-- The segment-remap and scan-direction opcodes of an orientation (R167). -/
def flipOpcodes (c : Config) (flipped : Bool) : Byte × Byte :=
  if flipped then (c.opSegFlipped, c.opScanFlipped) else (c.opSegUnflipped, c.opScanUnflipped)

/-- The pair sent, segment remap first, as one burst or two (R167, decision D18). -/
def State.emitFlip (flipped : Bool) (s : State) : State :=
  let (seg, scan) := flipOpcodes s.cfg flipped
  match s.cfg.flipFraming with
  | .oneBurst => s.emitCmdBurst { front := [seg], last := scan }
  | .twoBursts => (s.emitCmdBurst { front := [], last := seg }).emitCmdBurst { front := [], last := scan }

/-- FLIP (R167): "then forces a full `clear()`". -/
def execFlip (flag : Byte) (s : State) : Host.Outcome State Fault Refusal :=
  .next (s.gated (fun s => (s.emitFlip (boolOperand flag)).clearBody))

/-- SET_DISPLAY_COLUMN_OFFSET (R170): forced to 0 on SSD1306; no write (decision D22); an offset out of range has no
effect (R75). -/
def execSetDisplayColumnOffset (n : Byte) (s : State) : Host.Outcome State Fault Refusal :=
  .next (s.gated (fun s =>
    match offsetOperand n with
    | some o =>
      match s.chip with
      | .ssd1306 => { s with columnOffset := 0 }
      | .sh1106 => { s with columnOffset := o }
    | none => s))

end Sys2Proof.Machine
end

