-- ==== Sys2Proof/Machine/Wire.lean ====
section
/-! DEFINITION. The wire bytes as instructions of the controller (30_encoding.md R80, R83 to R89, R93): each changes the
receiver's position and the controller register its rule names, and no register of the block (R53: the block "never learns
anything from the display controller"). -/

namespace Sys2Proof.Machine

/-- CTRL_MORE (R80, R93). -/
def execCtrlMore (s : State) : Host.Outcome State Fault Refusal := .next { s with panel := wireEffect .ctrlMore s.panel }

/-- CTRL_LAST (R80, R93). -/
def execCtrlLast (s : State) : Host.Outcome State Fault Refusal := .next { s with panel := wireEffect .ctrlLast s.panel }

/-- CTRL_DATA (R80, R93). -/
def execCtrlData (s : State) : Host.Outcome State Fault Refusal := .next { s with panel := wireEffect .ctrlData s.panel }

/-- PAGE_ADDRESS (R83). -/
def execPageAddress (page : BitVec 3) (s : State) : Host.Outcome State Fault Refusal :=
  .next { s with panel := wireEffect (.pageAddress page) s.panel }

/-- COLUMN_ADDRESS_LOW (R84). -/
def execColumnAddressLow (nibble : BitVec 4) (s : State) : Host.Outcome State Fault Refusal :=
  .next { s with panel := wireEffect (.columnAddressLow nibble) s.panel }

/-- COLUMN_ADDRESS_HIGH (R85). -/
def execColumnAddressHigh (nibble : BitVec 4) (s : State) : Host.Outcome State Fault Refusal :=
  .next { s with panel := wireEffect (.columnAddressHigh nibble) s.panel }

/-- START_LINE (R86). -/
def execStartLine (value : BitVec 6) (s : State) : Host.Outcome State Fault Refusal :=
  .next { s with panel := wireEffect (.startLine value) s.panel }

/-- MODE_NORMAL (R87). -/
def execModeNormal (s : State) : Host.Outcome State Fault Refusal := .next { s with panel := wireEffect .modeNormal s.panel }

/-- MODE_INVERSE (R87). -/
def execModeInverse (s : State) : Host.Outcome State Fault Refusal := .next { s with panel := wireEffect .modeInverse s.panel }

/-- SEGMENT_REMAP_UNFLIPPED (R88). -/
def execSegmentRemapUnflipped (s : State) : Host.Outcome State Fault Refusal :=
  .next { s with panel := wireEffect .segmentRemapUnflipped s.panel }

/-- SEGMENT_REMAP_FLIPPED (R88). -/
def execSegmentRemapFlipped (s : State) : Host.Outcome State Fault Refusal :=
  .next { s with panel := wireEffect .segmentRemapFlipped s.panel }

/-- SCAN_DIRECTION_UNFLIPPED (R89). -/
def execScanDirectionUnflipped (s : State) : Host.Outcome State Fault Refusal :=
  .next { s with panel := wireEffect .scanDirectionUnflipped s.panel }

/-- SCAN_DIRECTION_FLIPPED (R89). -/
def execScanDirectionFlipped (s : State) : Host.Outcome State Fault Refusal :=
  .next { s with panel := wireEffect .scanDirectionFlipped s.panel }

end Sys2Proof.Machine
end

