-- ==== Sys2Proof/Machine/Dispatch.lean ====
section
/-! DEFINITION. The dispatch: one arm per constructor of `Instr`, each one call of its meaning. -/

namespace Sys2Proof.Machine

def exec (i : Instr) (s : State) : Host.Outcome State Fault Refusal :=
  match i with
  | .init chip requestedAddress => Sys2Proof.Machine.execInit chip requestedAddress s
  | .printChar code => Sys2Proof.Machine.execPrintChar code s
  | .clear => Sys2Proof.Machine.execClear s
  | .clearLine row => Sys2Proof.Machine.execClearLine row s
  | .clearCurrentLine => Sys2Proof.Machine.execClearCurrentLine s
  | .setCursor line column => Sys2Proof.Machine.execSetCursor line column s
  | .home => Sys2Proof.Machine.execHome s
  | .setInverse flag => Sys2Proof.Machine.execSetInverse flag s
  | .flip flag => Sys2Proof.Machine.execFlip flag s
  | .setInverseFont flag => Sys2Proof.Machine.execSetInverseFont flag s
  | .setPrintMode mode => Sys2Proof.Machine.execSetPrintMode mode s
  | .setDisplayColumnOffset n => Sys2Proof.Machine.execSetDisplayColumnOffset n s
  | .ctrlMore => Sys2Proof.Machine.execCtrlMore s
  | .ctrlLast => Sys2Proof.Machine.execCtrlLast s
  | .ctrlData => Sys2Proof.Machine.execCtrlData s
  | .pageAddress page => Sys2Proof.Machine.execPageAddress page s
  | .columnAddressLow nibble => Sys2Proof.Machine.execColumnAddressLow nibble s
  | .columnAddressHigh nibble => Sys2Proof.Machine.execColumnAddressHigh nibble s
  | .startLine value => Sys2Proof.Machine.execStartLine value s
  | .modeNormal => Sys2Proof.Machine.execModeNormal s
  | .modeInverse => Sys2Proof.Machine.execModeInverse s
  | .segmentRemapUnflipped => Sys2Proof.Machine.execSegmentRemapUnflipped s
  | .segmentRemapFlipped => Sys2Proof.Machine.execSegmentRemapFlipped s
  | .scanDirectionUnflipped => Sys2Proof.Machine.execScanDirectionUnflipped s
  | .scanDirectionFlipped => Sys2Proof.Machine.execScanDirectionFlipped s

end Sys2Proof.Machine
end

