-- ==== Sys2Proof/Machine/Ports.lean ====
section
/-! DEFINITION. What arrives from outside: fetching the next operation from the command port (20_memory.md R50), the block's
reset (70_reset_and_hazards.md R200), the other things on the bus (R207), and what the host can read (10_state.md R38). -/

namespace Sys2Proof.Machine

/-- Reset of the block (R200): every register at the value of R39, "no `TxWrite`", the controller untouched. -/
def State.blockReset (s : State) : State :=
  { State.resetWith s.cfg with inputs := s.inputs, answers := s.answers, tx := s.tx, panel := s.panel }

/-- A byte another agent sends the controller that is no instruction where it stands. -/
def State.strayByte (b : Byte) (s : State) : State := { s with panel := s.panel.otherByte (chipWidth s.chip) b }

/-- The end of another agent's burst: the next byte starts one (R93). -/
def State.busStop (s : State) : State := { s with panel := s.panel.atPhase .control }

/-- The controller is reset or loses power: the spec does not say what it then holds (R207, U17). -/
def State.controllerReset (s : State) : State := { s with panel := s.panel.lost }

/-- The controller after writes of an `INIT` of a chip, from its first on (R151): its probes, then the power-on bursts in the
table's order (R153), then bursts like any other. Only a probe carries no byte (R54, R81). -/
def Panel.afterInit (c : Config) (chip : Chip) (made : List TxWrite) (p : Panel) : Panel :=
  let probes := made.takeWhile fun e => e.bytes.isEmpty
  let bursts := made.dropWhile fun e => e.bytes.isEmpty
  let probed := probes.foldl (Panel.feed c (chipWidth chip)) p
  let poweredOn := ((powerOnBursts c chip).zip bursts).foldl (Panel.feedPowerOn c) probed
  (bursts.drop (powerOnBursts c chip).length).foldl (Panel.feed c (chipWidth chip)) poweredOn

/-- The controller after writes of one operation, from its first on: probes are "issued only by `INIT`" (R54), so writes with one
among them are an `INIT`'s. -/
def Panel.afterWrites (c : Config) (chip : Chip) (made : List TxWrite) (p : Panel) : Panel :=
  if made.any fun e => e.bytes.isEmpty then p.afterInit c chip made
  else made.foldl (Panel.feed c (chipWidth chip)) p

/-- "Reset ... ends any operation in progress" (R200): from `s` the operation would have ended in `u`; its first `writes`
transport writes have been made, or all if they are fewer, and the block is reset. The controller "keeps whatever state it has":
what the writes made have left. -/
def State.cutShort (s : State) (writes : Nat) (u : State) : State :=
  let made := (u.tx.drop s.tx.length).take writes
  { State.resetWith s.cfg with
    inputs := s.inputs
    answers := s.answers.drop made.length
    tx := s.tx ++ made
    panel := s.panel.afterWrites s.cfg u.chip made }

/-- What the next event of the outside world asks for. -/
inductive Fetched where
  /-- Nothing to execute: the state is the step's result. -/
  | done (s : State)
  /-- An instruction to execute in this state. -/
  | run (i : Instr) (s : State)
  /-- An instruction to execute in this state, ended by a reset after that many of its transport writes. -/
  | runUntilReset (i : Instr) (writes : Nat) (s : State)
deriving DecidableEq, Repr

/-- Taking the next event of the outside world (R50). An illegal word "completes with no effect at all" (R74). With nothing
presented nothing happens: "the block starts nothing on its own" (R50). -/
def fetch (s : State) : Fetched :=
  match s.inputs with
  | [] => .done s
  | .op w :: rest =>
    match decodeHost w with
    | .ok i => .run i { s with inputs := rest }
    | .error _ => .done { s with inputs := rest }
  | .reset :: rest => .done { s with inputs := rest }.blockReset
  | .opReset w writes :: rest =>
    match decodeHost w with
    | .ok i => .runUntilReset i writes { s with inputs := rest }
    | .error _ => .done { s with inputs := rest }.blockReset
  | .busByte b :: rest =>
    match decodeWire s.cfg s.panel.phase b with
    | .ok i => .run i { s with inputs := rest }
    | .error _ => .done ({ s with inputs := rest }.strayByte b)
  | .busStop :: rest => .done { s with inputs := rest }.busStop
  | .controllerReset :: rest => .done { s with inputs := rest }.controllerReset

/-- The step's outcome from that of the operation a reset ended. -/
def resetOutcome (s : State) (writes : Nat) : Host.Outcome State Fault Refusal → Host.Outcome State Fault Refusal
  | .next u => .next (s.cutShort writes u)
  | .fault r => .fault r
  | .refused r => .refused r

/-- What the host can read between operations (R38): the registers of R21 to R31 and the two constants of R32. -/
inductive HostReg where
  | chip
  | address
  | connected
  | line
  | column
  | lineOffset
  | columnOffset
  | printMode
  | inverseFont
  | status
  | txerr
  | maxTextLines
  | maxTextColumns
deriving DecidableEq, Repr

/-- The encoding of a print mode (R28). -/
def printModeCode : PrintMode → Byte
  | .overwriteSameLine => 0
  | .overwriteNextLine => 1
  | .scrollLine => 2

/-- The encoding of `status` (R30). -/
def statusCode : Status → Byte
  | .ok => 0
  | .invalidAddress => 1
  | .deviceNotFound => 2

/-- A one-bit register as a byte. -/
def bitCode (b : Bool) : Byte := if b then 1 else 0

/-- Reading a register, "with no side effect" (R38), in the encodings of R21, R28, R30. -/
def State.hostRead (s : State) : HostReg → Byte
  | .chip => encodeChip s.chip
  | .address => s.address
  | .connected => bitCode s.connected
  | .line => s.line.zeroExtend 8
  | .column => s.column.zeroExtend 8
  | .lineOffset => s.lineOffset.zeroExtend 8
  | .columnOffset => s.columnOffset.zeroExtend 8
  | .printMode => printModeCode s.printMode
  | .inverseFont => bitCode s.inverseFont
  | .status => statusCode s.status
  | .txerr => bitCode s.txerr
  | .maxTextLines => BitVec.ofNat 8 Machine.maxTextLines
  | .maxTextColumns => BitVec.ofNat 8 Machine.maxTextColumns

/-- The state in which the next step runs the instruction of a word (host contract): a host word is presented next, a wire byte
arrives next with the receiver at the position that takes it as an instruction. -/
def State.present (s : State) (nbits w : Nat) : State :=
  if nbits = 24 then { s with inputs := .op (BitVec.ofNat 24 w) :: s.inputs }
  else if nbits = 8 then
    { s with
      inputs := .busByte (BitVec.ofNat 8 w) :: s.inputs
      panel := s.panel.atPhase (lonePhase s.cfg (BitVec.ofNat 8 w)) }
  else s

end Sys2Proof.Machine
end

