-- ==== Sys2Proof/Machine/Step.lean ====
section
/-! DEFINITION. The step: one event of the outside world, run to completion (20_memory.md R50, 10_state.md R36: "each operation
as one atomic transition"). -/

namespace Sys2Proof.Machine

/-- One step: the next event is taken and, where it carries an instruction, the instruction runs, to completion or to the reset
that ends it. -/
def step (s : State) : Host.Outcome State Fault Refusal :=
  match fetch s with
  | .done t => .next t
  | .run i t => exec i t
  | .runUntilReset i writes t => resetOutcome t writes (exec i t)

/-- `s` with one instruction's word where the next step takes it (log entry 13). -/
def State.withFetchWord (s : State) (nbits w : Nat) : State := s.present nbits w

end Sys2Proof.Machine
end

