-- ==== Sys2Proof/Machine/Assembler.lean ====
section
/-! DEFINITION. The two pseudo-operations (40_cursor_engine.md R112, R113), running a sequence of operations (20_memory.md
R63), and the assembler syntax of the spec's examples (30_encoding.md R76, decision D27). Neither is part of the machine: a host
uses them to make command words. Text is a list of characters. -/

namespace Sys2Proof.Machine

/-! ## Pseudo-operations -/

/-- `PRINT "text"`: one PRINT_CHAR per character in order (R112). -/
def printOps (text : List Byte) : List Instr := text.map .printChar

/-- `PRINTLN "text"`: `PRINT "text"`, then PRINT_CHAR 0x0A (R113). -/
def printlnOps (text : List Byte) : List Instr := printOps text ++ [.printChar 0x0A]

/-- Operations one after the other, each complete before the next (R50, R63). -/
def execAll : List Instr → State → Host.Outcome State Fault Refusal
  | [], s => .next s
  | i :: rest, s =>
    match exec i s with
    | .next t => execAll rest t
    | .fault r => .fault r
    | .refused r => .refused r

/-! ## Assembler -/

/-- A hexadecimal digit. -/
def hexDigit (c : Char) : Option Nat :=
  if 48 ≤ c.toNat ∧ c.toNat ≤ 57 then some (c.toNat - 48)
  else if 65 ≤ c.toNat ∧ c.toNat ≤ 70 then some (c.toNat - 55)
  else if 97 ≤ c.toNat ∧ c.toNat ≤ 102 then some (c.toNat - 87)
  else none

/-- The longest run of digits of a base, with the value so far and how many digits there were. -/
def takeDigits (base : Nat) : List Char → Nat → Nat → Nat × Nat × List Char
  | [], value, count => (value, count, [])
  | c :: cs, value, count =>
    match hexDigit c with
    | some d => if d < base then takeDigits base cs (value * base + d) (count + 1) else (value, count, c :: cs)
    | none => (value, count, c :: cs)

/-- A character of a mnemonic or a symbolic name. -/
def isNameChar (c : Char) : Bool :=
  (65 ≤ c.toNat && c.toNat ≤ 90) || (97 ≤ c.toNat && c.toNat ≤ 122) || (48 ≤ c.toNat && c.toNat ≤ 57) || c = '_'

/-- Blanks skipped. -/
def skipBlanks (cs : List Char) : List Char := cs.dropWhile (fun c => c = ' ' || c = '\t')

/-- Whether nothing but a comment follows: "A `;` starts a comment." -/
def atEnd (cs : List Char) : Bool :=
  match skipBlanks cs with
  | [] => true
  | c :: _ => c = ';'

/-- A value as an operand byte. -/
def asByte (n : Nat) : Option Byte := if n < 256 then some (BitVec.ofNat 8 n) else none

/-- The symbolic operand names (R76). -/
def symbols (c : Config) : List (List Char × Byte) :=
  [("SH1106".toList, 0), ("SSD1306".toList, 1),
   ("OVERWRITE_SAME_LINE".toList, 0), ("OVERWRITE_NEXT_LINE".toList, 1), ("SCROLL_LINE".toList, 2),
   ("ADDR_A".toList, c.addrA), ("ADDR_B".toList, c.addrB), ("AUTO".toList, c.addrAuto),
   ("true".toList, 1), ("false".toList, 0)]

/-- The mnemonics with their operation codes and operand counts (R72). -/
def mnemonics : List (List Char × Byte × Nat) :=
  [("INIT".toList, 0x01, 2), ("PRINT_CHAR".toList, 0x02, 1), ("CLEAR".toList, 0x03, 0), ("CLEAR_LINE".toList, 0x04, 1),
   ("CLEAR_CURRENT_LINE".toList, 0x05, 0), ("SET_CURSOR".toList, 0x06, 2), ("HOME".toList, 0x07, 0),
   ("SET_INVERSE".toList, 0x08, 1), ("FLIP".toList, 0x09, 1), ("SET_INVERSE_FONT".toList, 0x0A, 1),
   ("SET_PRINT_MODE".toList, 0x0B, 1), ("SET_DISPLAY_COLUMN_OFFSET".toList, 0x0C, 1)]

/-- One operand: a character in single quotes, a hexadecimal or decimal number, or a symbolic name (R76). -/
def parseOperand (c : Config) (cs : List Char) : Option (Byte × List Char) :=
  match skipBlanks cs with
  | '\'' :: '\\' :: 'n' :: '\'' :: rest => some (0x0A, rest)
  | '\'' :: ch :: '\'' :: rest => (asByte ch.toNat).map fun b => (b, rest)
  | '0' :: 'x' :: rest =>
    let (value, count, rest) := takeDigits 16 rest 0 0
    if count = 0 then none else (asByte value).map fun b => (b, rest)
  | rest =>
    let (value, count, after) := takeDigits 10 rest 0 0
    if count ≠ 0 then (asByte value).map fun b => (b, after)
    else ((symbols c).lookup (rest.takeWhile isNameChar)).map fun b => (b, rest.dropWhile isNameChar)

/-- The operands of a line: `a`, then `b`, separated by a comma, then nothing but a comment. -/
def parseOperands (c : Config) (count : Nat) (cs : List Char) : Option (Byte × Byte) :=
  match count with
  | 0 => if atEnd cs then some (0, 0) else none
  | 1 =>
    match parseOperand c cs with
    | some (a, rest) => if atEnd rest then some (a, 0) else none
    | none => none
  | _ =>
    match parseOperand c cs with
    | some (a, rest) =>
      match skipBlanks rest with
      | ',' :: rest =>
        match parseOperand c rest with
        | some (b, rest) => if atEnd rest then some (a, b) else none
        | none => none
      | _ => none
    | none => none

/-- The characters of a text up to its closing quote, `\n` standing for 0x0A and `\xHH` for a code. -/
def parseText : List Char → Option (List Byte × List Char)
  | [] => none
  | '"' :: rest => some ([], rest)
  | '\\' :: 'n' :: rest => (parseText rest).map fun t => (0x0A :: t.1, t.2)
  | '\\' :: 'x' :: h :: l :: rest =>
    match hexDigit h, hexDigit l, parseText rest with
    | some hi, some lo, some t => some (BitVec.ofNat 8 (hi * 16 + lo) :: t.1, t.2)
    | _, _, _ => none
  | ch :: rest =>
    match asByte ch.toNat, parseText rest with
    | some b, some t => some (b :: t.1, t.2)
    | _, _ => none

/-- The command word of `PRINT_CHAR code`. -/
def printCharWord (code : Byte) : HostWord := hostWord 0x02 code 0

/-- The text operand of a pseudo-operation. -/
def parseTextOperand (cs : List Char) : Option (List Byte) :=
  match skipBlanks cs with
  | '"' :: rest =>
    match parseText rest with
    | some (text, rest) => if atEnd rest then some text else none
    | none => none
  | _ => none

/-- One line of R76: "One operation per line: the mnemonic of rule R72, then its operands separated by commas, in the order
`a`, `b`." A line that is empty or only a comment is no operation. -/
def assembleLine (c : Config) (line : List Char) : Option (List HostWord) :=
  if atEnd line then some []
  else
    let cs := skipBlanks line
    let name := cs.takeWhile isNameChar
    let rest := cs.dropWhile isNameChar
    if name = "PRINT".toList then (parseTextOperand rest).map fun t => t.map printCharWord
    else if name = "PRINTLN".toList then (parseTextOperand rest).map fun t => t.map printCharWord ++ [printCharWord 0x0A]
    else
      match mnemonics.lookup name with
      | some (op, count) => (parseOperands c count rest).map fun ab => [hostWord op ab.1 ab.2]
      | none => none

end Sys2Proof.Machine
end

