-- ==== Sys2Proof/Safety.lean ====
section
/-! DEFINITION. The terms the claims use: the invariant of 10_state.md R34, the agreement of the controller's pointers with
the cursor registers (70_reset_and_hazards.md R207), what it means that an operation made certain writes (20_memory.md R67), and
the wire bytes written out from the spec in plain arithmetic, without the model's own procedures. -/

namespace Sys2Proof

/-- The position at which a wire instruction's byte stands (R93); a host operation stands on the command port. -/
def Instr.fitsPhase (i : Instr) (phase : WirePhase) : Prop :=
  i.isHost = true ∨ (i.isControl = true ∧ phase = .control) ∨
    (i.isControl = false ∧ (phase = .opcodeMore ∨ phase = .opcodeLast))

end Sys2Proof

namespace Sys2Proof.Machine

/-! ## Invariants -/

/-- R34. (I-a), (I-c), (I-d), (I-f), (I-g) hold by the fields' types; the rest is (I-b), (I-e), (I-h), and that the display
RAM is in canonical form and lists only bytes that exist on a panel (R56). -/
structure State.Inv (s : State) : Prop where
  /-- (I-b). -/
  column_le : s.column.toNat ≤ 16
  /-- (I-e). -/
  offset_zero : s.connected = true → s.chip = .ssd1306 → s.columnOffset = 0
  /-- (I-h). -/
  address_known : s.connected = true → s.address = s.cfg.addrA ∨ s.address = s.cfg.addrB
  /-- The canonical form of the display RAM. -/
  ram_wf : s.panel.ram.wf
  /-- Every listed RAM byte has a page below 8 and a pixel column below the larger of the two widths. -/
  ram_exists : ∀ x ∈ s.panel.ram, x.1 < 8 * 256 ∧ x.1 % 256 < 132

/-- Pointer coherence (R207): the controller's pointers name the cell of the cursor registers, and its start line is the
scroll window's (R26). With `column = 16` the column pointer is at "pixel column `128 + columnOffset`". -/
structure State.Coherent (s : State) : Prop where
  page_eq : s.panel.page.toNat = (s.line.toNat + s.lineOffset.toNat) % 8
  column_eq : s.panel.column.toNat = s.column.toNat * 8 + s.columnOffset.toNat
  startLine_eq : s.panel.startLine.toNat = s.lineOffset.toNat * 8

/-! ## What an operation wrote -/

/-- The state without what transport writes leave behind: the record of writes, the answers still to come, `txerr` and the
controller. `t.core = { s with line := 3 }.core` says that `t` is `s` but for `line` and those four. -/
def State.core (s : State) : State := { s with answers := [], tx := [], txerr := false, panel := Panel.reset }

/-- The events of writing these bursts to `address`, one after the other, from `s` (R51, R52, R67). -/
def State.burstEvents (s : State) (bursts : List (List Byte)) : List TxWrite :=
  bursts.mapIdx fun k bytes => { addr := s.address, bytes := bytes, timeout := s.cfg.txTimeout, ok := s.answerAt k }

/-- From `s` to `t` exactly these bursts were written to `s.address`, in this order, each taking the next answer, and
`txerr` was set by a failed one and by nothing else (R31, R78, R79, R185). -/
structure Sent (s t : State) (bursts : List (List Byte)) : Prop where
  tx_eq : t.tx = s.tx ++ s.burstEvents bursts
  answers_eq : t.answers = s.answers.drop bursts.length
  txerr_eq : t.txerr = (s.txerr || (s.burstEvents bursts).any fun e => !e.ok)

/-- A command burst on the wire (R78): each opcode but the last after a `CTRL_MORE`, the last after a `CTRL_LAST`. -/
def isCommandFrame (c : Config) : List Byte → Bool
  | [] => false
  | [_] => false
  | [x, _] => x = c.ctrlLast
  | x :: _ :: y :: rest => x = c.ctrlMore && isCommandFrame c (y :: rest)

/-- A data burst on the wire (R79): one `CTRL_DATA`, then one data byte or more. -/
def isDataFrame (c : Config) : List Byte → Bool
  | [] => false
  | [_] => false
  | x :: _ :: _ => x = c.ctrlData

/-! ## The bursts of the spec, byte by byte -/

/-- The positioning burst for logical line `l` and pixel column `px` under a scroll window (R131, R132). -/
def wirePosition (c : Config) (lineOffset l px : Nat) : List Byte :=
  [c.ctrlMore, c.opPageAddress ||| BitVec.ofNat 8 ((l + lineOffset) % 8),
   c.ctrlMore, c.opColLow ||| BitVec.ofNat 8 (px % 16),
   c.ctrlLast, c.opColHigh ||| BitVec.ofNat 8 (px / 16)]

/-- The start-line burst (R86, R136). -/
def wireStartLine (c : Config) (lineOffset : Nat) : List Byte :=
  [c.ctrlLast, c.opStartLine ||| BitVec.ofNat 8 (lineOffset * 8)]

/-- The pixel column a clear sweep starts at (R160). -/
def wireSweepStart (s : State) : Nat :=
  match s.cfg.clearSweepStart with
  | .zero => 0
  | .columnOffset => s.columnOffset.toNat

/-- The sweep bursts of a chip (R160): "SSD1306: 8 bursts × 16 bytes; SH1106: 6 bursts × 22 bytes". -/
def wireSweep (c : Config) : Chip → List (List Byte)
  | .ssd1306 => List.replicate 8 (c.ctrlData :: List.replicate 16 0)
  | .sh1106 => List.replicate 6 (c.ctrlData :: List.replicate 22 0)

/-- The bursts that clear one logical row (R160). -/
def wireClearLine (s : State) (row : Nat) : List (List Byte) :=
  wirePosition s.cfg s.lineOffset.toNat row (wireSweepStart s) :: wireSweep s.cfg s.chip ++
    [wirePosition s.cfg s.lineOffset.toNat row s.columnOffset.toNat]

/-- The bursts that clear the display (R163): the rows 0 to 7, the start line 0, the home position. -/
def wireClear (s : State) : List (List Byte) :=
  (List.range 8).flatMap (wireClearLine s) ++
    [wireStartLine s.cfg 0, wirePosition s.cfg 0 0 s.columnOffset.toNat]

/-- The data burst of a printable code (R106): the glyph's bytes, each with every bit complemented in the inverse font. -/
def wireGlyph (s : State) (code : Byte) : List Byte :=
  s.cfg.ctrlData :: (glyphToList (glyphOf s.cfg code)).map fun g => if s.inverseFont then g ^^^ 0xFF else g

/-- The bursts of one line advance that moves to logical line `l` with the scroll window at `o` (R103). -/
def wireNextLine (s : State) (l o : Nat) : List (List Byte) :=
  match s.printMode with
  | .scrollLine =>
    (if s.line.toNat = 7 then [wireStartLine s.cfg o] else []) ++
      wirePosition s.cfg o l s.columnOffset.toNat ::
        (wirePosition s.cfg o l (wireSweepStart s) :: wireSweep s.cfg s.chip ++
          [wirePosition s.cfg o l s.columnOffset.toNat])
  | .overwriteNextLine => [wirePosition s.cfg o l s.columnOffset.toNat]
  | .overwriteSameLine => [wirePosition s.cfg o l s.columnOffset.toNat]

/-- The line after a line advance (R102). -/
def lineAfter (mode : PrintMode) (forced : Bool) (line : Nat) : Nat :=
  match mode with
  | .scrollLine => if line = 7 then 7 else line + 1
  | .overwriteNextLine => if line = 7 then 0 else line + 1
  | .overwriteSameLine => if forced then (if line = 7 then 0 else line + 1) else line

/-- The scroll window after a line advance (R102). -/
def lineOffsetAfter (mode : PrintMode) (line lineOffset : Nat) : Nat :=
  match mode with
  | .scrollLine => if line = 7 then (lineOffset + 1) % 8 else lineOffset
  | .overwriteNextLine => lineOffset
  | .overwriteSameLine => lineOffset

/-- The bursts of a flip before its clear (R167). -/
def wireFlip (c : Config) (seg scan : Byte) : List (List Byte) :=
  match c.flipFraming with
  | .oneBurst => [[c.ctrlMore, seg, c.ctrlLast, scan]]
  | .twoBursts => [[c.ctrlLast, seg], [c.ctrlLast, scan]]

/-- The events of a probe of `a`, the `k`-th write from `s` (R54, R152). -/
def State.probeEvent (s : State) (a : Byte) (k : Nat) : TxWrite :=
  { addr := a, bytes := [], timeout := s.cfg.txTimeout, ok := s.answerAt k }

/-- The byte of display RAM at (page, pixel column), none where it is not known (R57). -/
def State.ramByte (s : State) (page column : Nat) : Option Byte := s.panel.ram.read (page * 256 + column)

end Sys2Proof.Machine
end

