-- ==== Sys2Proof/Certificates/Slice0/Obligations.lean ====
section
/-! DEFINITION. The statements for the provers. Each says in its docstring which rule of the spec it formalises, or that it
rests on the model's or the spec's own choices. -/

open Sys2Proof Sys2Proof.Machine

/-! ## Encoding -/

/-- 30_encoding.md R70 to R73, R80, R82 to R89: decoding the encoding of any well-formed instruction, where its byte stands,
gives it back with every operand, under every parameters that obey R8 and whose opcode classes are disjoint (log entry 8). -/
def Obligations.DecodeInvertsEncode : Prop :=
  ∀ c : Config, c.Valid → c.OpcodesDisjoint → ∀ (i : Instr) (phase : WirePhase), i.wf = true → i.fitsPhase phase →
    decode c phase (encode c i) = .ok i

/-- The other direction: what decodes is well-formed, stands where it may and encodes to the same word or byte, so every word
and every byte in its position has one meaning. -/
def Obligations.EncodeInvertsDecode : Prop :=
  ∀ c : Config, c.Valid →
    (∀ (w : HostWord) (i : Instr), decodeHost w = .ok i → i.isHost = true ∧ i.wf = true ∧ encode c i = .host w) ∧
    (∀ (phase : WirePhase) (b : Byte) (i : Instr), decodeWire c phase b = .ok i →
      i.isHost = false ∧ i.wf = true ∧ i.fitsPhase phase ∧ encode c i = .wire b)

/-- R74 (decision D4): the illegal words are exactly those of an unknown operation code, of a nonzero unused operand byte, and
of an `INIT` whose chip selector is neither 0 nor 1. -/
def Obligations.IllegalWordsAreThoseOfTheEncodingRule : Prop :=
  ∀ w : HostWord,
    (∃ e, decodeHost w = .error e) ↔
      (w.toNat / 65536 = 0 ∨ 13 ≤ w.toNat / 65536) ∨
      (w.toNat / 65536 = 1 ∧ 2 ≤ w.toNat / 256 % 256) ∨
      (w.toNat / 65536 ∈ [2, 4, 8, 9, 10, 11, 12] ∧ w.toNat % 256 ≠ 0) ∨
      (w.toNat / 65536 ∈ [3, 5, 7] ∧ (w.toNat / 256 % 256 ≠ 0 ∨ w.toNat % 256 ≠ 0))

/-- Words and bytes written out from the encodings of R70 to R73 and R80 to R89 (R104, R138, R139, R151, R165, R167, R170 give the
host words) decode to what they stand for. The host words' numbers are the spec's decision D2. The wire bytes are those of
`Config.default`, which the spec has from general knowledge (G1, G2; PRESUMED, log entry 2). -/
def Obligations.WrittenOutWordsDecode : Prop :=
  decodeHost 0x010100 = .ok (.init .ssd1306 0x00) ∧ decodeHost 0x025800 = .ok (.printChar 0x58) ∧
  decodeHost 0x030000 = .ok .clear ∧ decodeHost 0x040300 = .ok (.clearLine 3) ∧
  decodeHost 0x050000 = .ok .clearCurrentLine ∧ decodeHost 0x060205 = .ok (.setCursor 2 5) ∧
  decodeHost 0x070000 = .ok .home ∧ decodeHost 0x080100 = .ok (.setInverse 1) ∧
  decodeHost 0x090100 = .ok (.flip 1) ∧ decodeHost 0x0A0100 = .ok (.setInverseFont 1) ∧
  decodeHost 0x0B0200 = .ok (.setPrintMode 2) ∧ decodeHost 0x0C0300 = .ok (.setDisplayColumnOffset 3) ∧
  decodeWire Config.default .control 0x80 = .ok .ctrlMore ∧ decodeWire Config.default .opcodeMore 0xB5 = .ok (.pageAddress 5) ∧
  decodeWire Config.default .opcodeMore 0x0B = .ok (.columnAddressLow 11) ∧
  decodeWire Config.default .opcodeLast 0x17 = .ok (.columnAddressHigh 7) ∧
  decodeWire Config.default .opcodeLast 0x58 = .ok (.startLine 24)

/-! ## The step -/

/-- 20_memory.md R50: a step takes the next event. Where it is a command word that decodes, the step is `exec` of that instruction
on the state with the event taken. The second clause, that a byte of another agent on the bus (R207) runs as an instruction of the
controller, is the model's choice (log entry 12). -/
def Obligations.StepRunsThePresentedInstruction : Prop :=
  (∀ (s : State) (w : HostWord) (rest : List PortEvent) (i : Instr),
    s.inputs = .op w :: rest → decodeHost w = .ok i → step s = exec i { s with inputs := rest }) ∧
  (∀ (s : State) (b : Byte) (rest : List PortEvent) (i : Instr),
    s.inputs = .busByte b :: rest → decodeWire s.cfg s.panel.phase b = .ok i → step s = exec i { s with inputs := rest })

/-- R50: "the block starts nothing on its own". -/
def Obligations.NothingPresentedNothingHappens : Prop := ∀ s : State, s.inputs = [] → step s = .next s

/-- R74 (decision D4, log entry 9): an illegal word completes "with no effect at all". -/
def Obligations.IllegalWordHasNoEffect : Prop :=
  ∀ (s : State) (w : HostWord) (rest : List PortEvent) (e : DecodeError),
    s.inputs = .op w :: rest → decodeHost w = .error e → step s = .next { s with inputs := rest }

/-- 60_exceptions.md R183, 70_reset_and_hazards.md R214 (both the spec's own): nothing traps, nothing hangs. Every instruction in
every state, and every step, answers a next state. -/
def Obligations.NothingTrapsOrHangs : Prop :=
  (∀ (i : Instr) (s : State), ∃ t, exec i s = .next t) ∧ (∀ s : State, ∃ t, step s = .next t)

/-! ## Reset -/

/-- 10_state.md R39 (decision D8, log entry 1, for all but `connected`): the registers after reset, under any parameters. -/
def Obligations.ResetValues : Prop :=
  ∀ c : Config, ∀ s, s = State.resetWith c →
    s.connected = false ∧ s.chip = .sh1106 ∧ s.address = 0x00 ∧ s.line = 0 ∧ s.column = 0 ∧ s.lineOffset = 0 ∧
    s.columnOffset = 0 ∧ s.printMode = c.resetPrintMode ∧ s.inverseFont = false ∧ s.status = .ok ∧ s.txerr = false

/-- R200 (decisions D8, D29): a reset of the block puts every register at its reset value, makes no write and leaves the
controller alone. -/
def Obligations.ResetEventClearsTheBlockOnly : Prop :=
  ∀ (s : State) (rest : List PortEvent), s.inputs = .reset :: rest →
    ∃ t, step s = .next t ∧ t.core = ({ State.resetWith s.cfg with inputs := rest } : State).core ∧
      t.txerr = false ∧ t.tx = s.tx ∧ t.answers = s.answers ∧ t.panel = s.panel

/-! ## Invariants and whole-machine rules -/

/-- R34 holds right after reset, under any parameters. -/
def Obligations.InvariantHoldsAtReset : Prop := ∀ c : Config, (State.resetWith c).Inv

/-- R34, "whenever no operation is in progress", with the canonical form of the display RAM: every step keeps the invariant, from
every state that has it. -/
def Obligations.EveryStepKeepsTheInvariant : Prop := ∀ s t : State, s.Inv → step s = .next t → t.Inv

/-- R40 with R21 to R30, R35: which operation may write which register, for all instructions, wire bytes included. -/
def Obligations.RegistersWrittenOnlyByTheirOperations : Prop :=
  ∀ (i : Instr) (s t : State), exec i s = .next t →
    t.cfg = s.cfg ∧ t.inputs = s.inputs ∧
    ((∀ c r, i ≠ .init c r) →
      t.chip = s.chip ∧ t.address = s.address ∧ t.connected = s.connected ∧ t.status = s.status) ∧
    ((∀ m, i ≠ .setPrintMode m) → t.printMode = s.printMode) ∧
    ((∀ f, i ≠ .setInverseFont f) → t.inverseFont = s.inverseFont) ∧
    ((∀ c r, i ≠ .init c r) → (∀ n, i ≠ .setDisplayColumnOffset n) → t.columnOffset = s.columnOffset) ∧
    ((∀ c r, i ≠ .init c r) → (∀ k, i ≠ .printChar k) → i ≠ .clear → (∀ f, i ≠ .flip f) → t.lineOffset = s.lineOffset) ∧
    ((∀ c r, i ≠ .init c r) → (∀ k, i ≠ .printChar k) → i ≠ .clear → (∀ f, i ≠ .flip f) → (∀ r, i ≠ .clearLine r) →
      i ≠ .home → (∀ l c, i ≠ .setCursor l c) →
      t.line = s.line ∧ (i ≠ .clearCurrentLine → t.column = s.column))

/-- 30_encoding.md R81 with R54, R62, 20_memory.md R51: whatever an instruction does, it only adds to the record of writes, and
each write it adds is handed the constant timeout and is either a probe of `ADDR_A` or `ADDR_B` made by `INIT`, or one
command burst or one data burst to `address`. -/
def Obligations.EveryWriteIsAProbeOrOneBurst : Prop :=
  ∀ (i : Instr) (s t : State), exec i s = .next t →
    ∃ evs, t.tx = s.tx ++ evs ∧ ∀ e ∈ evs, e.timeout = s.cfg.txTimeout ∧
      ((∃ c r, i = .init c r) ∧ e.bytes = [] ∧ (e.addr = s.cfg.addrA ∨ e.addr = s.cfg.addrB) ∨
       i.isHost = true ∧ e.addr = t.address ∧ (isCommandFrame s.cfg e.bytes = true ∨ isDataFrame s.cfg e.bytes = true))

/-- R31 (decision D11) with R152 (decision D25): `txerr` is set exactly by a failed burst, never by a probe, and nothing but a
reset clears it. -/
def Obligations.TxerrRecordsFailedBurstsOnly : Prop :=
  ∀ (i : Instr) (s t : State), exec i s = .next t →
    ∃ evs, t.tx = s.tx ++ evs ∧ t.txerr = (s.txerr || evs.any fun e => !e.bytes.isEmpty && !e.ok)

/-- 60_exceptions.md R186: every operation but `INIT` is a no-op while the block is disconnected. -/
def Obligations.DisconnectedBlockDoesNothing : Prop :=
  ∀ (i : Instr) (s : State), i.isHost = true → (∀ c r, i ≠ .init c r) → s.connected = false → exec i s = .next s

/-- 70_reset_and_hazards.md R214 with R154 and R163: every operation makes a bounded number of writes. -/
def Obligations.WritesAreBounded : Prop :=
  ∀ (i : Instr) (s t : State), exec i s = .next t →
    (∀ c r, i = .init c r → t.tx.length ≤ s.tx.length + (2 + (powerOnBursts s.cfg c).length + 1 + 82)) ∧
    ((∀ c r, i ≠ .init c r) → t.tx.length ≤ s.tx.length + 84)

/-- 20_memory.md R52 and 60_exceptions.md R185 (decision D20): but for the probes of `INIT`, the transport's answers change
nothing but `txerr`. Two states that agree in their registers, whatever was written and answered in either, come out of the same
operation with the same registers and the same writes. -/
def Obligations.AnswersChangeOnlyTxerr : Prop :=
  ∀ (i : Instr) (s₁ s₂ t₁ t₂ : State), (∀ c r, i ≠ .init c r) → s₁.core = s₂.core →
    exec i s₁ = .next t₁ → exec i s₂ = .next t₂ →
    t₁.core = t₂.core ∧ ∃ evs₁ evs₂, t₁.tx = s₁.tx ++ evs₁ ∧ t₂.tx = s₂.tx ++ evs₂ ∧
      evs₁.map (fun e => (e.addr, e.bytes, e.timeout)) = evs₂.map (fun e => (e.addr, e.bytes, e.timeout))

/-- R53: the transport port is write-only. What the controller holds has no influence on the block: two states that differ in
the controller alone come out of every host operation differing in the controller alone. -/
def Obligations.ControllerIsNeverReadBack : Prop :=
  ∀ (i : Instr) (s t : State) (p : Panel), i.isHost = true → exec i s = .next t →
    ∃ q, exec i { s with panel := p } = .next { t with panel := q }

/-! ## Framing -/

/-- R78: the bytes of a command burst, its one write to `address`, and what a failed one does. -/
def Obligations.CommandBurstFraming : Prop :=
  ∀ (s : State) (b : CmdBurst),
    ∃ bytes, Sent s (s.emitCmdBurst b) [bytes] ∧ (s.emitCmdBurst b).core = s.core ∧
      bytes.length = 2 * b.opcodes.length ∧
      ∀ k, k < b.opcodes.length →
        bytes[2 * k]? = some (if k + 1 < b.opcodes.length then s.cfg.ctrlMore else s.cfg.ctrlLast) ∧
        bytes[2 * k + 1]? = b.opcodes[k]?

/-- R79: the bytes of a data burst, its one write to `address`, and what a failed one does. -/
def Obligations.DataBurstFraming : Prop :=
  ∀ (s : State) (d : Byte) (ds : List Byte),
    Sent s (s.emitDataBurst (d :: ds)) [s.cfg.ctrlData :: d :: ds] ∧ (s.emitDataBurst (d :: ds)).core = s.core ∧
      (s.cfg.ctrlData :: d :: ds).length = (d :: ds).length + 1

/-- 41_command_encoder.md R131, R132, R133: the positioning burst, its page taken through the scroll mapping. -/
def Obligations.PositionBurst : Prop :=
  ∀ (s : State) (l : BitVec 3) (c : BitVec 4),
    (s.position l c).core = s.core ∧
    Sent s (s.position l c)
      [[s.cfg.ctrlMore, s.cfg.opPageAddress ||| BitVec.ofNat 8 ((l.toNat + s.lineOffset.toNat) % 8),
        s.cfg.ctrlMore, s.cfg.opColLow ||| BitVec.ofNat 8 ((c.toNat * 8 + s.columnOffset.toNat) % 16),
        s.cfg.ctrlLast, s.cfg.opColHigh ||| BitVec.ofNat 8 ((c.toNat * 8 + s.columnOffset.toNat) / 16)]]

/-- R135: scroll-one-line, with the start-line burst of the new value. -/
def Obligations.ScrollOneLine : Prop :=
  ∀ s : State,
    s.scrollOne.core = ({ s with lineOffset := BitVec.ofNat 3 ((s.lineOffset.toNat + 1) % 8) } : State).core ∧
    Sent s s.scrollOne
      [[s.cfg.ctrlLast, s.cfg.opStartLine ||| BitVec.ofNat 8 ((s.lineOffset.toNat + 1) % 8 * 8)]]

/-! ## The operations of the block -/

/-- R137, R138 (R75, decision D5, out of range): SET_CURSOR sets the cursor and sends its position, and "then querying state
yields exactly `(line, column)`". An operand out of range has no effect. -/
def Obligations.SetCursorResult : Prop :=
  ∀ (s : State) (l c : Byte), s.connected = true →
    (l.toNat < 8 ∧ c.toNat < 16 →
      ∃ t, exec (.setCursor l c) s = .next t ∧
        t.core = ({ s with line := BitVec.ofNat 3 l.toNat, column := BitVec.ofNat 5 c.toNat } : State).core ∧
        Sent s t [wirePosition s.cfg s.lineOffset.toNat l.toNat (c.toNat * 8 + s.columnOffset.toNat)] ∧
        t.hostRead .line = l ∧ t.hostRead .column = c) ∧
    (¬ (l.toNat < 8 ∧ c.toNat < 16) → exec (.setCursor l c) s = .next s)

/-- R139: HOME is the logical cell (0, 0) on physical page `lineOffset`; it does not reset the scroll window. -/
def Obligations.HomeResult : Prop :=
  ∀ s : State, s.connected = true →
    ∃ t, exec .home s = .next t ∧ t.core = ({ s with line := 0, column := 0 } : State).core ∧
      Sent s t [wirePosition s.cfg s.lineOffset.toNat 0 s.columnOffset.toNat]

/-- R101, R102, R103 (order of bursts: decision D28; the code of `'\n'`: decision D23): PRINT_CHAR of a newline is one forced line
advance. -/
def Obligations.NewlineAdvancesTheLine : Prop :=
  ∀ s : State, s.connected = true →
    ∃ t, exec (.printChar 0x0A) s = .next t ∧
      t.core = ({ s with
        line := BitVec.ofNat 3 (lineAfter s.printMode true s.line.toNat)
        lineOffset := BitVec.ofNat 3 (lineOffsetAfter s.printMode s.line.toNat s.lineOffset.toNat)
        column := 0 } : State).core ∧
      Sent s t (wireNextLine s (lineAfter s.printMode true s.line.toNat)
        (lineOffsetAfter s.printMode s.line.toNat s.lineOffset.toNat))

/-- R104, R106 (decision D19): a printable code before the end of the line is one data burst, and the column advances, up to
16 "line just filled, wrap pending". -/
def Obligations.PrintableCodeWithoutWrap : Prop :=
  ∀ (s : State) (code : Byte), s.connected = true → 32 ≤ code.toNat → code.toNat < 127 → s.column.toNat < 16 →
    ∃ t, exec (.printChar code) s = .next t ∧
      t.core = ({ s with column := BitVec.ofNat 5 (s.column.toNat + 1) } : State).core ∧
      Sent s t [wireGlyph s code]

/-- R104, R107: a printable code with the wrap pending makes the natural line advance first and lands in text column 0. -/
def Obligations.PrintableCodeWithPendingWrap : Prop :=
  ∀ (s : State) (code : Byte), s.connected = true → 32 ≤ code.toNat → code.toNat < 127 → 16 ≤ s.column.toNat →
    ∃ t, exec (.printChar code) s = .next t ∧
      t.core = ({ s with
        line := BitVec.ofNat 3 (lineAfter s.printMode false s.line.toNat)
        lineOffset := BitVec.ofNat 3 (lineOffsetAfter s.printMode s.line.toNat s.lineOffset.toNat)
        column := 1 } : State).core ∧
      Sent s t (wireNextLine s (lineAfter s.printMode false s.line.toNat)
        (lineOffsetAfter s.printMode s.line.toNat s.lineOffset.toNat) ++ [wireGlyph s code])

/-- R105 (decision D23): "codes outside [32,127) other than `'\n'` are silently ignored". -/
def Obligations.OtherCodesAreIgnored : Prop :=
  ∀ (s : State) (code : Byte), code ≠ 0x0A → (code.toNat < 32 ∨ 127 ≤ code.toNat) → exec (.printChar code) s = .next s

/-- R107 (derived there from R101 and R104): sixteen printable codes from column 0 stay on their line and leave the wrap pending,
and a newline after them moves as one line advance from that line does, whatever the print mode. -/
def Obligations.SixteenCodesLeaveTheWrapPending : Prop :=
  ∀ (s t : State) (text : List Byte), s.connected = true → s.column = 0 → text.length = 16 →
    (∀ k ∈ text, 32 ≤ k.toNat ∧ k.toNat < 127) → execAll (printOps text) s = .next t →
    t.line = s.line ∧ t.column = 16 ∧ t.lineOffset = s.lineOffset ∧
    ∃ u, exec (.printChar 0x0A) t = .next u ∧ u.column = 0 ∧
      u.line.toNat = lineAfter s.printMode true s.line.toNat ∧
      u.lineOffset.toNat = lineOffsetAfter s.printMode s.line.toNat s.lineOffset.toNat

/-- 40_cursor_engine.md R112, R113: PRINT is "one per character in order": PRINT_CHAR of the first character and then PRINT of the
rest, nothing for the empty text. PRINTLN is PRINT and then PRINT_CHAR 0x0A. PRINT of two texts is one after the other. -/
def Obligations.PrintlnIsPrintThenNewline : Prop :=
  ∀ (s : State) (text more : List Byte),
    ∃ t u, execAll (printOps text) s = .next t ∧ execAll (printOps more) t = .next u ∧
      execAll (printOps (text ++ more)) s = .next u ∧
      execAll (printlnOps text) s = exec (.printChar 0x0A) t ∧
      (text = [] → t = s) ∧
      ∀ code : Byte, ∃ v, exec (.printChar code) s = .next v ∧ execAll (printOps (code :: text)) s = execAll (printOps text) v

/-- R110 (decision D22; R75, decision D5, out of range): SET_PRINT_MODE writes its register and sends nothing. -/
def Obligations.SetPrintModeResult : Prop :=
  ∀ (s : State) (m : Byte), s.connected = true →
    (m.toNat = 0 → exec (.setPrintMode m) s = .next { s with printMode := .overwriteSameLine }) ∧
    (m.toNat = 1 → exec (.setPrintMode m) s = .next { s with printMode := .overwriteNextLine }) ∧
    (m.toNat = 2 → exec (.setPrintMode m) s = .next { s with printMode := .scrollLine }) ∧
    (3 ≤ m.toNat → exec (.setPrintMode m) s = .next s)

/-- R111 (decision D22): SET_INVERSE_FONT writes its register and sends nothing. -/
def Obligations.SetInverseFontResult : Prop :=
  ∀ (s : State) (f : Byte), s.connected = true →
    (f.toNat = 0 → exec (.setInverseFont f) s = .next { s with inverseFont := false }) ∧
    (f.toNat ≠ 0 → exec (.setInverseFont f) s = .next { s with inverseFont := true })

/-- R170 (decision D22; R75, decision D5, out of range): SET_DISPLAY_COLUMN_OFFSET writes its register, 0 on SSD1306, and sends
nothing. -/
def Obligations.SetDisplayColumnOffsetResult : Prop :=
  ∀ (s : State) (n : Byte), s.connected = true →
    (n.toNat ≤ 3 → s.chip = .sh1106 →
      exec (.setDisplayColumnOffset n) s = .next { s with columnOffset := BitVec.ofNat 2 n.toNat }) ∧
    (n.toNat ≤ 3 → s.chip = .ssd1306 → exec (.setDisplayColumnOffset n) s = .next { s with columnOffset := 0 }) ∧
    (4 ≤ n.toNat → exec (.setDisplayColumnOffset n) s = .next s)

/-- R160, R161 (sweep start: decision D16; out of range: decision D5): CLEAR_LINE sweeps the row's page and leaves the cursor at
its start. -/
def Obligations.ClearLineResult : Prop :=
  ∀ (s : State) (r : Byte), s.connected = true →
    (r.toNat < 8 →
      ∃ t, exec (.clearLine r) s = .next t ∧
        t.core = ({ s with line := BitVec.ofNat 3 r.toNat, column := 0 } : State).core ∧
        Sent s t (wireClearLine s r.toNat)) ∧
    (8 ≤ r.toNat → exec (.clearLine r) s = .next s)

/-- R162: CLEAR_CURRENT_LINE clears the cursor's row; "`line` keeps its value; `column` becomes 0". -/
def Obligations.ClearCurrentLineResult : Prop :=
  ∀ s : State, s.connected = true →
    ∃ t, exec .clearCurrentLine s = .next t ∧ t.core = ({ s with column := 0 } : State).core ∧
      Sent s t (wireClearLine s s.line.toNat)

/-- R163, R164 (order: decision D17): CLEAR sweeps the eight rows through the old scroll window, then resets the window and homes
the cursor, "regardless of prior state". -/
def Obligations.ClearResult : Prop :=
  ∀ s : State, s.connected = true →
    ∃ t, exec .clear s = .next t ∧ t.core = ({ s with line := 0, column := 0, lineOffset := 0 } : State).core ∧
      Sent s t (wireClear s)

/-- R165: SET_INVERSE sends one opcode and writes no register of the block. -/
def Obligations.SetInverseResult : Prop :=
  ∀ (s : State) (f : Byte),
    decodeHost (0x08#8 ++ f ++ 0x00#8) = .ok (.setInverse f) ∧
    (s.connected = false → exec (.setInverse f) s = .next s) ∧
    (s.connected = true →
      ∃ t, exec (.setInverse f) s = .next t ∧ t.core = s.core ∧
        Sent s t [[s.cfg.ctrlLast, if f.toNat = 0 then s.cfg.opModeNormal else s.cfg.opModeInverse]])

/-- R167 (framing and polarity: decision D18): FLIP sends the orientation's two opcodes, segment remap first, then clears. -/
def Obligations.FlipResult : Prop :=
  ∀ (s : State) (f : Byte), s.connected = true →
    ∃ t, exec (.flip f) s = .next t ∧ t.core = ({ s with line := 0, column := 0, lineOffset := 0 } : State).core ∧
      Sent s t
        ((if f.toNat = 0 then wireFlip s.cfg s.cfg.opSegUnflipped s.cfg.opScanUnflipped
          else wireFlip s.cfg s.cfg.opSegFlipped s.cfg.opScanFlipped) ++ wireClear s)

/-! ## INIT -/

/-- R151, R182 (decisions D9: a connected block is disconnected and nothing else changes; D10: no write before the address check,
A before B; D25: a probe does not touch `txerr`; log entry 16): an address outside the set, and AUTO with no device answering. A
failed probe leaves the controller (log entry 7). After the latter no operation but a further INIT writes anything. -/
def Obligations.InitFailures : Prop :=
  (∀ (s : State) (c : Chip) (r : Byte), r ≠ s.cfg.addrA → r ≠ s.cfg.addrB → r ≠ s.cfg.addrAuto →
    exec (.init c r) s = .next { s with connected := false, status := .invalidAddress }) ∧
  (∀ (s : State) (c : Chip), s.cfg.Valid → s.answerAt 0 = false → s.answerAt 1 = false →
    ∃ t, exec (.init c s.cfg.addrAuto) s = .next t ∧
      t.core = ({ s with connected := false, status := .deviceNotFound } : State).core ∧ t.txerr = s.txerr ∧
      t.tx = s.tx ++ [s.probeEvent s.cfg.addrA 0, s.probeEvent s.cfg.addrB 1] ∧ t.answers = s.answers.drop 2 ∧
      t.panel = s.panel ∧
      ∀ (i : Instr), i.isHost = true → (∀ c r, i ≠ .init c r) → exec i t = .next t)

/-- R151 (decisions D9, D10, D25): an explicit address that does not answer is one probe, `DeviceNotFound`, and nothing else
changed; the failed probe leaves the controller (log entry 7). -/
def Obligations.InitExplicitAddressNotAcknowledged : Prop :=
  ∀ (s : State) (c : Chip) (r : Byte), s.cfg.Valid → (r = s.cfg.addrA ∨ r = s.cfg.addrB) → s.answerAt 0 = false →
    ∃ t, exec (.init c r) s = .next t ∧
      t.core = ({ s with connected := false, status := .deviceNotFound } : State).core ∧
      t.txerr = s.txerr ∧ t.tx = s.tx ++ [s.probeEvent r 0] ∧ t.answers = s.answers.drop 1 ∧ t.panel = s.panel

/-- R151, R153 (decisions D9, D10, D15): INIT on success. The probes choose the device, then the power-on bursts, the home position
and the clear are written to it. `s₁` is the state after the probes with the registers INIT writes before its first burst. -/
def Obligations.InitSuccess : Prop :=
  ∀ (s : State) (c : Chip) (req sel : Byte) (probes : List TxWrite), s.cfg.Valid →
    ((req = s.cfg.addrA ∨ req = s.cfg.addrB) ∧ s.answerAt 0 = true ∧ sel = req ∧ probes = [s.probeEvent req 0] ∨
     req = s.cfg.addrAuto ∧ s.answerAt 0 = true ∧ sel = s.cfg.addrA ∧ probes = [s.probeEvent s.cfg.addrA 0] ∨
     req = s.cfg.addrAuto ∧ s.answerAt 0 = false ∧ s.answerAt 1 = true ∧ sel = s.cfg.addrB ∧
      probes = [s.probeEvent s.cfg.addrA 0, s.probeEvent s.cfg.addrB 1]) →
    ∃ t s₁, exec (.init c req) s = .next t ∧
      s₁ = { s with
        chip := c
        address := sel
        connected := true
        status := .ok
        columnOffset := if c = .ssd1306 then 0 else s.cfg.defaultColOffsetSH1106
        tx := s.tx ++ probes
        answers := s.answers.drop probes.length } ∧
      t.core = ({ s₁ with line := 0, column := 0, lineOffset := 0 } : State).core ∧
      Sent s₁ t
        (((powerOnBursts s.cfg c).map fun b => frameCmd s.cfg b.toCmd) ++
          wirePosition s.cfg s.lineOffset.toNat 0 s₁.columnOffset.toNat :: wireClear s₁)

/-- R154: how many writes an INIT makes. -/
def Obligations.InitWriteCount : Prop :=
  ∀ (s t : State) (c : Chip) (req : Byte), s.cfg.Valid → exec (.init c req) s = .next t →
    (t.status = .invalidAddress → t.tx.length = s.tx.length) ∧
    (t.status = .deviceNotFound → req ≠ s.cfg.addrAuto → t.tx.length = s.tx.length + 1) ∧
    (t.status = .deviceNotFound → req = s.cfg.addrAuto → t.tx.length = s.tx.length + 2) ∧
    (t.status = .ok → ∃ p, (p = 1 ∨ p = 2) ∧
      t.tx.length = s.tx.length + (p + (powerOnBursts s.cfg c).length + if c = .ssd1306 then 83 else 67))

/-! ## The wire bytes -/

/-- R83 to R89: each wire opcode sets the controller register its rule names and nothing else of the machine, but that the
receiver moves on (R93). That a column opcode sets its nibble of the column pointer at once and keeps the other is the model's
choice (log entry 20). -/
def Obligations.WireOpcodesSetTheirRegister : Prop :=
  ∀ (s : State) (page : BitVec 3) (nibble : BitVec 4) (value : BitVec 6) (p : Panel),
    p = { s.panel with phase := phaseAfterOpcode s.panel.phase } →
    exec (.pageAddress page) s = .next { s with panel := { p with page := page } } ∧
    exec (.columnAddressLow nibble) s = .next { s with panel := { p with columnLow := nibble } } ∧
    exec (.columnAddressHigh nibble) s = .next { s with panel := { p with columnHigh := nibble } } ∧
    exec (.startLine value) s = .next { s with panel := { p with startLine := value } } ∧
    exec .modeNormal s = .next { s with panel := { p with inverse := false } } ∧
    exec .modeInverse s = .next { s with panel := { p with inverse := true } } ∧
    exec .segmentRemapUnflipped s = .next { s with panel := { p with segFlipped := false } } ∧
    exec .segmentRemapFlipped s = .next { s with panel := { p with segFlipped := true } } ∧
    exec .scanDirectionUnflipped s = .next { s with panel := { p with scanFlipped := false } } ∧
    exec .scanDirectionFlipped s = .next { s with panel := { p with scanFlipped := true } }

/-- R80, R93: the control bytes say what follows, and after an opcode the receiver stands where the burst's last control byte
says. -/
def Obligations.ControlBytesSayWhatFollows : Prop :=
  ∀ s : State,
    exec .ctrlMore s = .next { s with panel := { s.panel with phase := .opcodeMore } } ∧
    exec .ctrlLast s = .next { s with panel := { s.panel with phase := .opcodeLast } } ∧
    exec .ctrlData s = .next { s with panel := { s.panel with phase := .data } } ∧
    phaseAfterOpcode .opcodeMore = .control ∧ phaseAfterOpcode .opcodeLast = .closed

/-- R93: a receiver can parse a command burst without knowing what produced it: it amounts to the burst's opcodes executed in
order, for every burst whose opcodes belong to the table. -/
def Obligations.CommandBurstIsItsOpcodesInOrder : Prop :=
  ∀ (c : Config) (width : Nat) (p : Panel) (b : CmdBurst) (is : List Instr), c.Valid →
    b.opcodes.map (decodeOpcode c) = is.map Except.ok →
    p.deliver c width (frameCmd c b) = { is.foldl (fun q i => wireEffect i q) p with phase := .control }

/-- 20_memory.md R57 (auto-increment: general knowledge G8, log entry 4): a data burst that stays on the page fills consecutive
pixel columns, moves the column pointer past them and changes no other byte and no other register. -/
def Obligations.DataBurstFillsConsecutiveColumns : Prop :=
  ∀ (c : Config) (chip : Chip) (p q : Panel) (ds : List Byte), c.Valid →
    p.column.toNat + ds.length ≤ chipWidth chip → q = p.deliver c (chipWidth chip) (frameData c ds) →
    q.column.toNat = p.column.toNat + ds.length ∧ q.page = p.page ∧ q.startLine = p.startLine ∧
    q.inverse = p.inverse ∧ q.segFlipped = p.segFlipped ∧ q.scanFlipped = p.scanFlipped ∧
    (∀ k, k < ds.length → q.ram.read (p.page.toNat * 256 + p.column.toNat + k) = ds[k]?) ∧
    (∀ x, (x < p.page.toNat * 256 + p.column.toNat ∨ p.page.toNat * 256 + p.column.toNat + ds.length ≤ x) →
      q.ram.read x = p.ram.read x)

/-! ## The block and the controller together

What these say of the controller rests on R57 and R207 (general knowledge G8, log entries 4 to 8 and 20). Their premise
`t.txerr = false` says that every burst was answered `ok` (U4). -/

/-- R53, R57, R67, R93: the controller receives exactly the writes an operation adds to the record, one after the other, and nothing
else of the operation reaches it. With a statement that gives an operation's writes this is the whole effect on the display:
every byte of its RAM, its pointers and its modes. -/
def Obligations.ControllerReceivesExactlyTheWrites : Prop :=
  ∀ (i : Instr) (s t : State), i.isHost = true → (∀ c r, i ≠ .init c r) → exec i s = .next t →
    ∃ evs, t.tx = s.tx ++ evs ∧ t.panel = evs.foldl (Panel.feed s.cfg (chipWidth s.chip)) s.panel

/-- R207: from a state in which pointers and cursor agree, every host operation but SET_DISPLAY_COLUMN_OFFSET (R208) leaves them
in agreement, if no burst failed and sweeps start at pixel column 0. -/
def Obligations.PointersFollowTheCursor : Prop :=
  ∀ (i : Instr) (s t : State), s.cfg.Valid → s.cfg.OpcodesDisjoint → s.cfg.clearSweepStart = .zero → s.Inv → s.Coherent →
    i.isHost = true → (∀ n, i ≠ .setDisplayColumnOffset n) → exec i s = .next t → t.txerr = false → t.Coherent

/-- R203 (derived there), R163: whatever the display held and wherever its pointers were, after a successful INIT, a CLEAR or a
FLIP with no failed burst every byte of the display is 0, its start line is 0 and its pointers are at the home cell. -/
def Obligations.ClearingZeroesTheDisplay : Prop :=
  ∀ (i : Instr) (s t : State), s.cfg.Valid → s.cfg.OpcodesDisjoint → s.cfg.clearSweepStart = .zero → s.Inv →
    ((∃ c r, i = .init c r) ∧ t.status = .ok ∨ (i = .clear ∨ ∃ f, i = .flip f) ∧ s.connected = true) →
    exec i s = .next t → t.txerr = false →
    (∀ page column, page < 8 → column < chipWidth t.chip → t.ramByte page column = some 0) ∧
    t.panel.startLine = 0 ∧ t.panel.page = 0 ∧ t.panel.column.toNat = t.columnOffset.toNat

/-- R58, R106, R207: a printable code before the end of the line puts its glyph's bytes, complemented in the inverse font, in the
eight pixel columns of the cursor's cell, and changes no other byte of the display. -/
def Obligations.GlyphLandsInItsCell : Prop :=
  ∀ (s t : State) (code : Byte) (page first : Nat), s.cfg.Valid → s.Inv → s.Coherent → s.connected = true →
    32 ≤ code.toNat → code.toNat < 127 → s.column.toNat < 16 →
    exec (.printChar code) s = .next t → t.txerr = false →
    page = (s.line.toNat + s.lineOffset.toNat) % 8 → first = s.column.toNat * 8 + s.columnOffset.toNat →
    (∀ k, k < 8 → t.ramByte page (first + k) =
      ((glyphToList (glyphOf s.cfg code)).map (fun g => if s.inverseFont then g ^^^ 0xFF else g))[k]?) ∧
    (∀ x, (x < page * 256 + first ∨ page * 256 + first + 8 ≤ x) → t.panel.ram.read x = s.panel.ram.read x)

/-- R104, R106, R107, R108: a printable code with the wrap pending puts its glyph in the first cell of the line it enters. The display
changes nowhere else, but that in SCROLL_LINE mode the rest of the entered line is zeroed. -/
def Obligations.GlyphAfterPendingWrapLandsInColumnZero : Prop :=
  ∀ (s t : State) (code : Byte) (page first : Nat), s.cfg.Valid → s.cfg.OpcodesDisjoint → s.cfg.clearSweepStart = .zero →
    s.connected = true → 32 ≤ code.toNat → code.toNat < 127 → 16 ≤ s.column.toNat →
    exec (.printChar code) s = .next t → t.txerr = false →
    page = (t.line.toNat + t.lineOffset.toNat) % 8 → first = s.columnOffset.toNat →
    (∀ k, k < 8 → t.ramByte page (first + k) =
      ((glyphToList (glyphOf s.cfg code)).map (fun g => if s.inverseFont then g ^^^ 0xFF else g))[k]?) ∧
    (∀ x, (x < page * 256 + first ∨ page * 256 + first + 8 ≤ x) →
      t.panel.ram.read x =
        if s.printMode = .scrollLine ∧ page * 256 ≤ x ∧ x < page * 256 + chipWidth s.chip then some 0 else s.panel.ram.read x)

/-- R101, R103: in SCROLL_LINE mode a newline zeroes the page of the line it enters, at the bottom the page that was the top row
before the scroll, and no other page. -/
def Obligations.ScrollingNewlineZeroesTheEnteredPageOnly : Prop :=
  ∀ (s t : State) (page : Nat), s.cfg.Valid → s.cfg.OpcodesDisjoint → s.cfg.clearSweepStart = .zero →
    s.connected = true → s.printMode = .scrollLine → exec (.printChar 0x0A) s = .next t → t.txerr = false →
    page = (t.line.toNat + t.lineOffset.toNat) % 8 →
    (∀ column, column < chipWidth s.chip → t.ramByte page column = some 0) ∧
    (∀ p column, p < 8 → column < 256 → p ≠ page → t.ramByte p column = s.ramByte p column) ∧
    (s.line.toNat = 7 → page = s.lineOffset.toNat) ∧ (s.line.toNat < 7 → page = (s.line.toNat + 1 + s.lineOffset.toNat) % 8)

/-- R160, R161, R162, R209: clearing a line zeroes its whole physical page and leaves every other page alone. -/
def Obligations.ClearLineZeroesItsPageOnly : Prop :=
  ∀ (i : Instr) (s t : State) (row page : Nat), s.cfg.Valid → s.cfg.OpcodesDisjoint → s.cfg.clearSweepStart = .zero →
    s.connected = true →
    (i = .clearLine (BitVec.ofNat 8 row) ∧ row < 8 ∨ i = .clearCurrentLine ∧ row = s.line.toNat) →
    exec i s = .next t → t.txerr = false → page = (row + s.lineOffset.toNat) % 8 →
    (∀ column, column < chipWidth s.chip → t.ramByte page column = some 0) ∧
    (∀ p column, p < 8 → column < 256 → p ≠ page → t.ramByte p column = s.ramByte p column)

/-- R138, R139, R165, R110, R111, R170, R105: the forms that store nothing leave every byte of the display RAM. The overwrite modes'
line advance is among them: it "skips this clear" (R108). -/
def Obligations.FormsThatStoreNothingLeaveTheDisplay : Prop :=
  ∀ (i : Instr) (s t : State), s.cfg.Valid → s.cfg.OpcodesDisjoint →
    ((∃ l c, i = .setCursor l c) ∨ i = .home ∨ (∃ f, i = .setInverse f) ∨ (∃ f, i = .setInverseFont f) ∨
     (∃ m, i = .setPrintMode m) ∨ (∃ n, i = .setDisplayColumnOffset n) ∨
     (i = .printChar 0x0A ∧ s.printMode ≠ .scrollLine) ∨
     (∃ k, i = .printChar k ∧ k ≠ 0x0A ∧ (k.toNat < 32 ∨ 127 ≤ k.toNat))) →
    exec i s = .next t → t.txerr = false → ∀ x, t.panel.ram.read x = s.panel.ram.read x

/-- R165, R167, R37: SET_INVERSE sets the panel mode its flag names, FLIP the orientation, and no other operation but INIT, whose
power-on bursts the spec does not give, changes either. -/
def Obligations.PanelModesFollowTheirOperations : Prop :=
  ∀ (i : Instr) (s t : State), s.cfg.Valid → s.cfg.OpcodesDisjoint → s.cfg.clearSweepStart = .zero → s.Inv → s.Coherent →
    s.connected = true → i.isHost = true → (∀ c r, i ≠ .init c r) → exec i s = .next t → t.txerr = false →
    (∀ f, i = .setInverse f → t.panel.inverse = decide (f.toNat ≠ 0)) ∧
    ((∀ f, i ≠ .setInverse f) → t.panel.inverse = s.panel.inverse) ∧
    (∀ f, i = .flip f → t.panel.segFlipped = decide (f.toNat ≠ 0) ∧ t.panel.scanFlipped = decide (f.toNat ≠ 0)) ∧
    ((∀ f, i ≠ .flip f) → t.panel.segFlipped = s.panel.segFlipped ∧ t.panel.scanFlipped = s.panel.scanFlipped)

/-- 42_facade.md R168 (derived there): a FLIP to the other orientation and a FLIP back leave the unflipped opcodes in force, the
display cleared both times and the cursor home. -/
def Obligations.FlipThereAndBack : Prop :=
  ∀ (s t u : State), s.cfg.Valid → s.cfg.OpcodesDisjoint → s.cfg.clearSweepStart = .zero → s.Inv → s.connected = true →
    exec (.flip 1) s = .next t → exec (.flip 0) t = .next u → u.txerr = false →
    t.panel.segFlipped = true ∧ t.panel.scanFlipped = true ∧ u.panel.segFlipped = false ∧ u.panel.scanFlipped = false ∧
    (∀ page column, page < 8 → column < chipWidth s.chip → t.ramByte page column = some 0 ∧ u.ramByte page column = some 0) ∧
    u.core = ({ s with line := 0, column := 0, lineOffset := 0 } : State).core ∧ t.core = u.core

/-! ## What happens beside the operations -/

/-- R53, R207 (the bus events: the model's choice, log entry 12): a byte of another agent that is no instruction where it stands,
the end of its burst and a reset of the controller change the controller alone: a step that takes one changes no register of the
block, makes no write and takes no answer. The end of a burst changes the receiver's position only. -/
def Obligations.BusEventsLeaveTheBlock : Prop :=
  (∀ (s : State) (b : Byte) (rest : List PortEvent) (e : DecodeError),
    s.inputs = .busByte b :: rest → decodeWire s.cfg s.panel.phase b = .error e →
    ∃ q, step s = .next { s with inputs := rest, panel := q }) ∧
  (∀ (s : State) (rest : List PortEvent), s.inputs = .busStop :: rest →
    step s = .next { s with inputs := rest, panel := { s.panel with phase := .control } }) ∧
  (∀ (s : State) (rest : List PortEvent), s.inputs = .controllerReset :: rest →
    ∃ q, step s = .next { s with inputs := rest, panel := q })

/-- R200: a reset "ends any operation in progress". Where it arrives after `k` writes of an operation, those writes have been made,
or all where the operation makes fewer, no other is made, and the block is as after any reset (decision D8). The controller "keeps
whatever state it has": what those writes have left (log entry 12), and where they are all of them, what the operation leaves.
The writes made of an INIT are probes, then bursts of the power-on table from its first on, and others only after the whole table.
An illegal word is no operation. -/
def Obligations.ResetEndsTheOperationInProgress : Prop :=
  (∀ (s u : State) (w : HostWord) (k : Nat) (rest : List PortEvent) (i : Instr),
    s.inputs = .opReset w k :: rest → decodeHost w = .ok i → exec i { s with inputs := rest } = .next u →
    ∃ t evs, step s = .next t ∧ t.core = ({ State.resetWith s.cfg with inputs := rest } : State).core ∧ t.txerr = false ∧
      u.tx = s.tx ++ evs ∧ t.tx = s.tx ++ evs.take k ∧ t.answers = s.answers.drop (min k evs.length) ∧
      (evs.length ≤ k → t.panel = u.panel) ∧
      ((∀ c r, i ≠ .init c r) → t.panel = (evs.take k).foldl (Panel.feed s.cfg (chipWidth s.chip)) s.panel) ∧
      (∀ c r, i = .init c r → ∃ probes powerOn others : List TxWrite,
        evs.take k = probes ++ powerOn ++ others ∧
        (∀ e ∈ probes, e.bytes = []) ∧
        powerOn.map TxWrite.bytes = ((powerOnBursts s.cfg c).take powerOn.length).map (fun b => frameCmd s.cfg b.toCmd) ∧
        (others ≠ [] → powerOn.length = (powerOnBursts s.cfg c).length) ∧
        t.panel = others.foldl (Panel.feed s.cfg (chipWidth c))
          (((powerOnBursts s.cfg c).zip powerOn).foldl (Panel.feedPowerOn s.cfg)
            (probes.foldl (Panel.feed s.cfg (chipWidth c)) s.panel)))) ∧
  (∀ (s : State) (w : HostWord) (k : Nat) (rest : List PortEvent) (e : DecodeError),
    s.inputs = .opReset w k :: rest → decodeHost w = .error e →
    ∃ t, step s = .next t ∧ t.core = ({ State.resetWith s.cfg with inputs := rest } : State).core ∧
      t.txerr = false ∧ t.tx = s.tx ∧ t.answers = s.answers ∧ t.panel = s.panel)

/-- R153, R168 (derived there; a power-on byte that is no orientation opcode leaves the orientation: log entry 6): after a
successful INIT with no failed burst the segment remap is the unflipped one where the power-on table of the chip sets it, and
otherwise what it was; the scan direction likewise. Where the table sets both, FLIP to the other orientation and back restores the
setting that INIT left. -/
def Obligations.PowerOnOrientationIsUnflipped : Prop :=
  ∀ (s t : State) (c : Chip) (req : Byte), s.cfg.Valid → s.cfg.OpcodesDisjoint → s.cfg.clearSweepStart = .zero →
    exec (.init c req) s = .next t → t.status = .ok → t.txerr = false →
    t.panel.segFlipped =
      (if ∃ b ∈ powerOnBursts s.cfg c, b.hasCommand s.cfg.opSegUnflipped then false else s.panel.segFlipped) ∧
    t.panel.scanFlipped =
      (if ∃ b ∈ powerOnBursts s.cfg c, b.hasCommand s.cfg.opScanUnflipped then false else s.panel.scanFlipped) ∧
    ∀ u v : State, exec (.flip 1) t = .next u → exec (.flip 0) u = .next v → v.txerr = false →
      (∃ b ∈ powerOnBursts s.cfg c, b.hasCommand s.cfg.opSegUnflipped) →
      (∃ b ∈ powerOnBursts s.cfg c, b.hasCommand s.cfg.opScanUnflipped) →
      v.panel.segFlipped = t.panel.segFlipped ∧ v.panel.scanFlipped = t.panel.scanFlipped
end

