-- ==== Sys2Proof/Laws/Encoding.lean ====
section
/-! SUPPORT. The fields of a host word and the classes of the wire opcodes. -/

namespace Sys2Proof

/-! ## Host words -/

theorem hostWord_toNat (op a b : Byte) : (hostWord op a b).toNat = op.toNat * 65536 + a.toNat * 256 + b.toNat := by
  have h1 := op.isLt; have h2 := a.isLt; have h3 := b.isLt
  simp only [hostWord, BitVec.toNat_append]
  rw [← Nat.shiftLeft_add_eq_or_of_lt (by omega), ← Nat.shiftLeft_add_eq_or_of_lt (by omega)]
  simp only [Nat.shiftLeft_eq]
  omega

@[simp] theorem hostOp_hostWord (op a b : Byte) : hostOp (hostWord op a b) = op := by
  have h1 := op.isLt; have h2 := a.isLt; have h3 := b.isLt
  apply BitVec.eq_of_toNat_eq
  simp only [hostOp, BitVec.extractLsb'_toNat, hostWord_toNat, Nat.shiftRight_eq_div_pow]
  omega

@[simp] theorem hostA_hostWord (op a b : Byte) : hostA (hostWord op a b) = a := by
  have h1 := op.isLt; have h2 := a.isLt; have h3 := b.isLt
  apply BitVec.eq_of_toNat_eq
  simp only [hostA, BitVec.extractLsb'_toNat, hostWord_toNat, Nat.shiftRight_eq_div_pow]
  omega

@[simp] theorem hostB_hostWord (op a b : Byte) : hostB (hostWord op a b) = b := by
  have h1 := op.isLt; have h2 := a.isLt; have h3 := b.isLt
  apply BitVec.eq_of_toNat_eq
  simp only [hostB, BitVec.extractLsb'_toNat, hostWord_toNat, Nat.shiftRight_eq_div_pow]
  omega

/-- A word is its three fields (R70). -/
theorem hostWord_fields (w : HostWord) : hostWord (hostOp w) (hostA w) (hostB w) = w := by
  have := w.isLt
  apply BitVec.eq_of_toNat_eq
  simp only [hostWord_toNat, hostOp, hostA, hostB, BitVec.extractLsb'_toNat, Nat.shiftRight_eq_div_pow]
  omega

/-! ## Wire opcodes -/

/-- Setting argument bits above a base whose bits there are zero leaves the base under the mask (R82). -/
theorem and_or_of_disjoint {base arg m : Byte} (hb : base &&& ~~~m = 0) (ha : arg &&& m = 0) : (base ||| arg) &&& m = base := by
  apply BitVec.eq_of_getLsbD_eq
  intro i hi
  have h1 := congrArg (fun x => BitVec.getLsbD x i) hb
  have h2 := congrArg (fun x => BitVec.getLsbD x i) ha
  simp [hi] at h1 h2 ⊢
  cases hm : m.getLsbD i <;> simp_all

/-- A byte belongs to the `i`-th opcode class. -/
def Config.inClass (c : Config) (i : Nat) (b : Byte) : Prop :=
  ∃ h : i < c.opcodeClasses.length, b &&& c.opcodeClasses[i].1 = c.opcodeClasses[i].2

theorem and_mask_mask (b x y : Byte) : (b &&& x) &&& (x &&& y) = b &&& (x &&& y) := by
  apply BitVec.eq_of_getLsbD_eq
  intro i hi
  simp only [BitVec.getLsbD_and]
  cases b.getLsbD i <;> cases x.getLsbD i <;> simp

theorem and_mask_mask' (b x y : Byte) : (b &&& y) &&& (x &&& y) = b &&& (x &&& y) := by
  rw [BitVec.and_comm x y]; exact and_mask_mask b y x

/-- No byte belongs to two classes. -/
theorem Config.OpcodesDisjoint.not_both {c : Config} (h : c.OpcodesDisjoint) {i j : Nat} {b : Byte} (hij : i < j)
    (hi : c.inClass i b) (hj : c.inClass j b) : False := by
  obtain ⟨li, ei⟩ := hi
  obtain ⟨lj, ej⟩ := hj
  have := (List.pairwise_iff_getElem.1 h) i j li lj hij
  rw [← ei, ← ej, and_mask_mask, and_mask_mask'] at this
  exact this rfl

theorem and_ff (b : Byte) : b &&& 0xFF#8 = b := by
  have : (0xFF#8 : Byte) = BitVec.allOnes 8 := rfl
  rw [this, BitVec.and_allOnes]

/-- The class tests of `decodeOpcode`. -/
theorem Config.inClass_iff (c : Config) (b : Byte) :
    (c.inClass 0 b ↔ b &&& 0xF8 = c.opPageAddress) ∧ (c.inClass 1 b ↔ b &&& 0xF0 = c.opColLow) ∧
    (c.inClass 2 b ↔ b &&& 0xF8 = c.opColHigh) ∧ (c.inClass 3 b ↔ b &&& 0xC7 = c.opStartLine) ∧
    (c.inClass 4 b ↔ b = c.opModeNormal) ∧ (c.inClass 5 b ↔ b = c.opModeInverse) ∧
    (c.inClass 6 b ↔ b = c.opSegUnflipped) ∧ (c.inClass 7 b ↔ b = c.opSegFlipped) ∧
    (c.inClass 8 b ↔ b = c.opScanUnflipped) ∧ (c.inClass 9 b ↔ b = c.opScanFlipped) := by
  simp [Config.inClass, Config.opcodeClasses, and_ff]

/-- Under disjoint classes `decodeOpcode` is decided by the class a byte is in. -/
theorem decodeOpcode_of_class {c : Config} (h : c.OpcodesDisjoint) (b : Byte) :
    (b &&& 0xF8 = c.opPageAddress → decodeOpcode c b = .ok (.pageAddress (b.extractLsb' 0 3))) ∧
    (b &&& 0xF0 = c.opColLow → decodeOpcode c b = .ok (.columnAddressLow (b.extractLsb' 0 4))) ∧
    (b &&& 0xF8 = c.opColHigh → decodeOpcode c b = .ok (.columnAddressHigh (b.extractLsb' 0 4))) ∧
    (b &&& 0xC7 = c.opStartLine → decodeOpcode c b = .ok (.startLine (b.extractLsb' 0 6))) ∧
    (b = c.opModeNormal → decodeOpcode c b = .ok .modeNormal) ∧
    (b = c.opModeInverse → decodeOpcode c b = .ok .modeInverse) ∧
    (b = c.opSegUnflipped → decodeOpcode c b = .ok .segmentRemapUnflipped) ∧
    (b = c.opSegFlipped → decodeOpcode c b = .ok .segmentRemapFlipped) ∧
    (b = c.opScanUnflipped → decodeOpcode c b = .ok .scanDirectionUnflipped) ∧
    (b = c.opScanFlipped → decodeOpcode c b = .ok .scanDirectionFlipped) := by
  obtain ⟨i0, i1, i2, i3, i4, i5, i6, i7, i8, i9⟩ := c.inClass_iff b
  have n0 : ∀ j, 0 < j → c.inClass j b → ¬ (b &&& 0xF8 = c.opPageAddress) := fun j hj hc hi => h.not_both hj (i0.2 hi) hc
  have n1 : ∀ j, 1 < j → c.inClass j b → ¬ (b &&& 0xF0 = c.opColLow) := fun j hj hc hi => h.not_both hj (i1.2 hi) hc
  have n2 : ∀ j, 2 < j → c.inClass j b → ¬ (b &&& 0xF8 = c.opColHigh) := fun j hj hc hi => h.not_both hj (i2.2 hi) hc
  have n3 : ∀ j, 3 < j → c.inClass j b → ¬ (b &&& 0xC7 = c.opStartLine) := fun j hj hc hi => h.not_both hj (i3.2 hi) hc
  have n4 : ∀ j, 4 < j → c.inClass j b → ¬ b = c.opModeNormal := fun j hj hc hi => h.not_both hj (i4.2 hi) hc
  have n5 : ∀ j, 5 < j → c.inClass j b → ¬ b = c.opModeInverse := fun j hj hc hi => h.not_both hj (i5.2 hi) hc
  have n6 : ∀ j, 6 < j → c.inClass j b → ¬ b = c.opSegUnflipped := fun j hj hc hi => h.not_both hj (i6.2 hi) hc
  have n7 : ∀ j, 7 < j → c.inClass j b → ¬ b = c.opSegFlipped := fun j hj hc hi => h.not_both hj (i7.2 hi) hc
  have n8 : ∀ j, 8 < j → c.inClass j b → ¬ b = c.opScanUnflipped := fun j hj hc hi => h.not_both hj (i8.2 hi) hc
  unfold decodeOpcode
  refine ⟨fun hk => ?_, fun hk => ?_, fun hk => ?_, fun hk => ?_, fun hk => ?_, fun hk => ?_, fun hk => ?_, fun hk => ?_,
    fun hk => ?_, fun hk => ?_⟩
  · rw [if_pos hk]
  · have q := i1.2 hk
    rw [if_neg (n0 1 (by omega) q), if_pos hk]
  · have q := i2.2 hk
    rw [if_neg (n0 2 (by omega) q), if_neg (n1 2 (by omega) q), if_pos hk]
  · have q := i3.2 hk
    rw [if_neg (n0 3 (by omega) q), if_neg (n1 3 (by omega) q), if_neg (n2 3 (by omega) q), if_pos hk]
  · have q := i4.2 hk
    rw [if_neg (n0 4 (by omega) q), if_neg (n1 4 (by omega) q), if_neg (n2 4 (by omega) q), if_neg (n3 4 (by
      omega) q), if_pos hk]
  · have q := i5.2 hk
    rw [if_neg (n0 5 (by omega) q), if_neg (n1 5 (by omega) q), if_neg (n2 5 (by omega) q), if_neg (n3 5 (by
      omega) q), if_neg (n4 5 (by omega) q), if_pos hk]
  · have q := i6.2 hk
    rw [if_neg (n0 6 (by omega) q), if_neg (n1 6 (by omega) q), if_neg (n2 6 (by omega) q), if_neg (n3 6 (by
      omega) q), if_neg (n4 6 (by omega) q), if_neg (n5 6 (by omega) q), if_pos hk]
  · have q := i7.2 hk
    rw [if_neg (n0 7 (by omega) q), if_neg (n1 7 (by omega) q), if_neg (n2 7 (by omega) q), if_neg (n3 7 (by
      omega) q), if_neg (n4 7 (by omega) q), if_neg (n5 7 (by omega) q), if_neg (n6 7 (by omega) q), if_pos hk]
  · have q := i8.2 hk
    rw [if_neg (n0 8 (by omega) q), if_neg (n1 8 (by omega) q), if_neg (n2 8 (by omega) q), if_neg (n3 8 (by
      omega) q), if_neg (n4 8 (by omega) q), if_neg (n5 8 (by omega) q), if_neg (n6 8 (by omega) q), if_neg (n7 8
      (by omega) q), if_pos hk]
  · have q := i9.2 hk
    rw [if_neg (n0 9 (by omega) q), if_neg (n1 9 (by omega) q), if_neg (n2 9 (by omega) q), if_neg (n3 9 (by
      omega) q), if_neg (n4 9 (by omega) q), if_neg (n5 9 (by omega) q), if_neg (n6 9 (by omega) q), if_neg (n7 9
      (by omega) q), if_neg (n8 9 (by omega) q), if_pos hk]

end Sys2Proof
end

