-- ==== Sys2Proof/Laws/Memory.lean ====
section
/-! SUPPORT. The display RAM's laws: reading after writing, and that writing keeps the canonical form. -/

namespace Sys2Proof.Machine

/-- What is written is read back. -/
theorem Memory.read_write_same (m : Memory) (a : Nat) (b : Byte) : (m.write a b).read a = some b := by
  induction m with
  | nil => simp [Memory.write, Memory.read]
  | cons c m ih =>
    unfold Memory.write
    split
    · simp [Memory.read]
    · split
      · simp [Memory.read]
      · rename_i h1 h2
        have : ¬ c.1 = a := fun h => h2 h.symm
        simp [Memory.read, this, ih]

/-- Every other address is left alone. -/
theorem Memory.read_write_other (m : Memory) (a x : Nat) (b : Byte) (h : x ≠ a) : (m.write a b).read x = m.read x := by
  induction m with
  | nil => simp [Memory.write, Memory.read, Ne.symm h]
  | cons c m ih =>
    unfold Memory.write
    split
    · simp [Memory.read, Ne.symm h]
    · split
      · rename_i h1 h2
        have : ¬ c.1 = x := fun e => h (by omega)
        simp [Memory.read, Ne.symm h, this]
      · simp [Memory.read, ih]

/-- An entry of the memory after a write is the one written or was there before. -/
theorem Memory.mem_write (m : Memory) (a : Nat) (b : Byte) (x : Host.Cell) (h : x ∈ m.write a b) : x = (a, b) ∨ x ∈ m := by
  induction m with
  | nil => simpa [Memory.write] using h
  | cons c m ih =>
    unfold Memory.write at h
    split at h
    · simpa using h
    · split at h
      · rcases List.mem_cons.1 h with h | h
        · exact .inl h
        · exact .inr (List.mem_cons_of_mem _ h)
      · rcases List.mem_cons.1 h with h | h
        · exact .inr (by simp [h])
        · rcases ih h with h | h
          · exact .inl h
          · exact .inr (List.mem_cons_of_mem _ h)

/-- A write keeps the canonical form. -/
theorem Memory.write_wf (m : Memory) (a : Nat) (b : Byte) (h : m.wf) : (m.write a b).wf := by
  induction m with
  | nil => simp [Memory.write, Memory.wf]
  | cons c m ih =>
    obtain ⟨hc, hm⟩ := List.pairwise_cons.1 h
    unfold Memory.write
    split
    · rename_i h1
      refine List.pairwise_cons.2 ⟨fun x hx => ?_, h⟩
      rcases List.mem_cons.1 hx with rfl | hx
      · exact h1
      · exact Nat.lt_trans h1 (hc x hx)
    · split
      · rename_i h1 h2
        exact List.pairwise_cons.2 ⟨fun x hx => by simpa [h2] using hc x hx, hm⟩
      · rename_i h1 h2
        refine List.pairwise_cons.2 ⟨fun x hx => ?_, ih hm⟩
        rcases Memory.mem_write m a b x hx with rfl | hx
        · show c.1 < a
          omega
        · exact hc x hx

/-- The empty memory is in canonical form. -/
theorem Memory.wf_nil : Memory.wf [] := List.Pairwise.nil

/-- Distinct cells of the display have distinct addresses (R57). -/
theorem ramAddress_inj (p q : BitVec 3) (x y : BitVec 8) : ramAddress p x = ramAddress q y ↔ p = q ∧ x = y := by
  have := x.isLt
  have := y.isLt
  constructor
  · intro h
    simp only [ramAddress] at h
    exact ⟨BitVec.eq_of_toNat_eq (by omega), BitVec.eq_of_toNat_eq (by omega)⟩
  · rintro ⟨rfl, rfl⟩; rfl

end Sys2Proof.Machine
end

