-- ==== Sys2Proof/Laws/State.lean ====
section
/-! SUPPORT. One lemma per field and update, true by unfolding the update once, so that no later proof unfolds a record
update. -/

namespace Sys2Proof.Machine

/-! ## Writing a cursor register -/

@[simp] theorem State.lineAt_chip (x : BitVec 3) (s : State) : (s.lineAt x).chip = s.chip := rfl
@[simp] theorem State.lineAt_address (x : BitVec 3) (s : State) : (s.lineAt x).address = s.address := rfl
@[simp] theorem State.lineAt_connected (x : BitVec 3) (s : State) : (s.lineAt x).connected = s.connected := rfl
@[simp] theorem State.lineAt_line (x : BitVec 3) (s : State) : (s.lineAt x).line = x := rfl
@[simp] theorem State.lineAt_column (x : BitVec 3) (s : State) : (s.lineAt x).column = s.column := rfl
@[simp] theorem State.lineAt_lineOffset (x : BitVec 3) (s : State) : (s.lineAt x).lineOffset = s.lineOffset := rfl
@[simp] theorem State.lineAt_columnOffset (x : BitVec 3) (s : State) : (s.lineAt x).columnOffset = s.columnOffset := rfl
@[simp] theorem State.lineAt_printMode (x : BitVec 3) (s : State) : (s.lineAt x).printMode = s.printMode := rfl
@[simp] theorem State.lineAt_inverseFont (x : BitVec 3) (s : State) : (s.lineAt x).inverseFont = s.inverseFont := rfl
@[simp] theorem State.lineAt_status (x : BitVec 3) (s : State) : (s.lineAt x).status = s.status := rfl
@[simp] theorem State.lineAt_txerr (x : BitVec 3) (s : State) : (s.lineAt x).txerr = s.txerr := rfl
@[simp] theorem State.lineAt_cfg (x : BitVec 3) (s : State) : (s.lineAt x).cfg = s.cfg := rfl
@[simp] theorem State.lineAt_inputs (x : BitVec 3) (s : State) : (s.lineAt x).inputs = s.inputs := rfl
@[simp] theorem State.lineAt_answers (x : BitVec 3) (s : State) : (s.lineAt x).answers = s.answers := rfl
@[simp] theorem State.lineAt_tx (x : BitVec 3) (s : State) : (s.lineAt x).tx = s.tx := rfl
@[simp] theorem State.lineAt_panel (x : BitVec 3) (s : State) : (s.lineAt x).panel = s.panel := rfl
@[simp] theorem State.columnAt_chip (x : BitVec 5) (s : State) : (s.columnAt x).chip = s.chip := rfl
@[simp] theorem State.columnAt_address (x : BitVec 5) (s : State) : (s.columnAt x).address = s.address := rfl
@[simp] theorem State.columnAt_connected (x : BitVec 5) (s : State) : (s.columnAt x).connected = s.connected := rfl
@[simp] theorem State.columnAt_line (x : BitVec 5) (s : State) : (s.columnAt x).line = s.line := rfl
@[simp] theorem State.columnAt_column (x : BitVec 5) (s : State) : (s.columnAt x).column = x := rfl
@[simp] theorem State.columnAt_lineOffset (x : BitVec 5) (s : State) : (s.columnAt x).lineOffset = s.lineOffset := rfl
@[simp] theorem State.columnAt_columnOffset (x : BitVec 5) (s : State) : (s.columnAt x).columnOffset = s.columnOffset := rfl
@[simp] theorem State.columnAt_printMode (x : BitVec 5) (s : State) : (s.columnAt x).printMode = s.printMode := rfl
@[simp] theorem State.columnAt_inverseFont (x : BitVec 5) (s : State) : (s.columnAt x).inverseFont = s.inverseFont := rfl
@[simp] theorem State.columnAt_status (x : BitVec 5) (s : State) : (s.columnAt x).status = s.status := rfl
@[simp] theorem State.columnAt_txerr (x : BitVec 5) (s : State) : (s.columnAt x).txerr = s.txerr := rfl
@[simp] theorem State.columnAt_cfg (x : BitVec 5) (s : State) : (s.columnAt x).cfg = s.cfg := rfl
@[simp] theorem State.columnAt_inputs (x : BitVec 5) (s : State) : (s.columnAt x).inputs = s.inputs := rfl
@[simp] theorem State.columnAt_answers (x : BitVec 5) (s : State) : (s.columnAt x).answers = s.answers := rfl
@[simp] theorem State.columnAt_tx (x : BitVec 5) (s : State) : (s.columnAt x).tx = s.tx := rfl
@[simp] theorem State.columnAt_panel (x : BitVec 5) (s : State) : (s.columnAt x).panel = s.panel := rfl
@[simp] theorem State.windowAt_chip (x : BitVec 3) (s : State) : (s.windowAt x).chip = s.chip := rfl
@[simp] theorem State.windowAt_address (x : BitVec 3) (s : State) : (s.windowAt x).address = s.address := rfl
@[simp] theorem State.windowAt_connected (x : BitVec 3) (s : State) : (s.windowAt x).connected = s.connected := rfl
@[simp] theorem State.windowAt_line (x : BitVec 3) (s : State) : (s.windowAt x).line = s.line := rfl
@[simp] theorem State.windowAt_column (x : BitVec 3) (s : State) : (s.windowAt x).column = s.column := rfl
@[simp] theorem State.windowAt_lineOffset (x : BitVec 3) (s : State) : (s.windowAt x).lineOffset = x := rfl
@[simp] theorem State.windowAt_columnOffset (x : BitVec 3) (s : State) : (s.windowAt x).columnOffset = s.columnOffset := rfl
@[simp] theorem State.windowAt_printMode (x : BitVec 3) (s : State) : (s.windowAt x).printMode = s.printMode := rfl
@[simp] theorem State.windowAt_inverseFont (x : BitVec 3) (s : State) : (s.windowAt x).inverseFont = s.inverseFont := rfl
@[simp] theorem State.windowAt_status (x : BitVec 3) (s : State) : (s.windowAt x).status = s.status := rfl
@[simp] theorem State.windowAt_txerr (x : BitVec 3) (s : State) : (s.windowAt x).txerr = s.txerr := rfl
@[simp] theorem State.windowAt_cfg (x : BitVec 3) (s : State) : (s.windowAt x).cfg = s.cfg := rfl
@[simp] theorem State.windowAt_inputs (x : BitVec 3) (s : State) : (s.windowAt x).inputs = s.inputs := rfl
@[simp] theorem State.windowAt_answers (x : BitVec 3) (s : State) : (s.windowAt x).answers = s.answers := rfl
@[simp] theorem State.windowAt_tx (x : BitVec 3) (s : State) : (s.windowAt x).tx = s.tx := rfl
@[simp] theorem State.windowAt_panel (x : BitVec 3) (s : State) : (s.windowAt x).panel = s.panel := rfl

/-! ## A transport write: it changes the record, the answers and the controller, nothing else -/

@[simp] theorem State.txWrite_chip (a : Byte) (bs : List Byte) (s : State) : (s.txWrite a bs).chip = s.chip := rfl
@[simp] theorem State.txWrite_address (a : Byte) (bs : List Byte) (s : State) : (s.txWrite a bs).address = s.address := rfl
@[simp] theorem State.txWrite_connected (a : Byte) (bs : List Byte) (s : State) : (s.txWrite a bs).connected = s.connected := rfl
@[simp] theorem State.txWrite_line (a : Byte) (bs : List Byte) (s : State) : (s.txWrite a bs).line = s.line := rfl
@[simp] theorem State.txWrite_column (a : Byte) (bs : List Byte) (s : State) : (s.txWrite a bs).column = s.column := rfl
@[simp] theorem State.txWrite_lineOffset (a : Byte) (bs : List Byte) (s : State) : (s.txWrite a bs).lineOffset = s.lineOffset := rfl
@[simp] theorem State.txWrite_columnOffset (a : Byte) (bs : List Byte) (s : State) : (s.txWrite a bs).columnOffset = s.columnOffset := rfl
@[simp] theorem State.txWrite_printMode (a : Byte) (bs : List Byte) (s : State) : (s.txWrite a bs).printMode = s.printMode := rfl
@[simp] theorem State.txWrite_inverseFont (a : Byte) (bs : List Byte) (s : State) : (s.txWrite a bs).inverseFont = s.inverseFont := rfl
@[simp] theorem State.txWrite_status (a : Byte) (bs : List Byte) (s : State) : (s.txWrite a bs).status = s.status := rfl
@[simp] theorem State.txWrite_txerr (a : Byte) (bs : List Byte) (s : State) : (s.txWrite a bs).txerr = s.txerr := rfl
@[simp] theorem State.txWrite_cfg (a : Byte) (bs : List Byte) (s : State) : (s.txWrite a bs).cfg = s.cfg := rfl
@[simp] theorem State.txWrite_inputs (a : Byte) (bs : List Byte) (s : State) : (s.txWrite a bs).inputs = s.inputs := rfl
@[simp] theorem State.txWrite_answers (a : Byte) (bs : List Byte) (s : State) : (s.txWrite a bs).answers = s.answers.tail := rfl
@[simp] theorem State.txWrite_panel (a : Byte) (bs : List Byte) (s : State) : (s.txWrite a bs).panel = s.panelAfter bs := rfl

/-! ## A probe -/

@[simp] theorem State.probe_chip (a : Byte) (s : State) : (s.probe a).chip = s.chip := rfl
@[simp] theorem State.probe_address (a : Byte) (s : State) : (s.probe a).address = s.address := rfl
@[simp] theorem State.probe_connected (a : Byte) (s : State) : (s.probe a).connected = s.connected := rfl
@[simp] theorem State.probe_line (a : Byte) (s : State) : (s.probe a).line = s.line := rfl
@[simp] theorem State.probe_column (a : Byte) (s : State) : (s.probe a).column = s.column := rfl
@[simp] theorem State.probe_lineOffset (a : Byte) (s : State) : (s.probe a).lineOffset = s.lineOffset := rfl
@[simp] theorem State.probe_columnOffset (a : Byte) (s : State) : (s.probe a).columnOffset = s.columnOffset := rfl
@[simp] theorem State.probe_printMode (a : Byte) (s : State) : (s.probe a).printMode = s.printMode := rfl
@[simp] theorem State.probe_inverseFont (a : Byte) (s : State) : (s.probe a).inverseFont = s.inverseFont := rfl
@[simp] theorem State.probe_status (a : Byte) (s : State) : (s.probe a).status = s.status := rfl
@[simp] theorem State.probe_txerr (a : Byte) (s : State) : (s.probe a).txerr = s.txerr := rfl
@[simp] theorem State.probe_cfg (a : Byte) (s : State) : (s.probe a).cfg = s.cfg := rfl
@[simp] theorem State.probe_inputs (a : Byte) (s : State) : (s.probe a).inputs = s.inputs := rfl

@[simp] theorem State.probe_answers (a : Byte) (s : State) : (s.probe a).answers = s.answers.tail := rfl
theorem State.probe_tx (a : Byte) (s : State) :
    (s.probe a).tx = s.tx ++ [{ addr := a, bytes := [], timeout := s.cfg.txTimeout, ok := s.nextAnswer }] := rfl
@[simp] theorem State.probe_tx_length (a : Byte) (s : State) : (s.probe a).tx.length = s.tx.length + 1 := by
  simp [State.probe_tx]

/-! ## A burst: as a transport write, and `txerr` where it failed -/

@[simp] theorem State.emit_chip (bs : List Byte) (s : State) : (s.emit bs).chip = s.chip := by
  unfold State.emit; split <;> rfl
@[simp] theorem State.emit_address (bs : List Byte) (s : State) : (s.emit bs).address = s.address := by
  unfold State.emit; split <;> rfl
@[simp] theorem State.emit_connected (bs : List Byte) (s : State) : (s.emit bs).connected = s.connected := by
  unfold State.emit; split <;> rfl
@[simp] theorem State.emit_line (bs : List Byte) (s : State) : (s.emit bs).line = s.line := by
  unfold State.emit; split <;> rfl
@[simp] theorem State.emit_column (bs : List Byte) (s : State) : (s.emit bs).column = s.column := by
  unfold State.emit; split <;> rfl
@[simp] theorem State.emit_lineOffset (bs : List Byte) (s : State) : (s.emit bs).lineOffset = s.lineOffset := by
  unfold State.emit; split <;> rfl
@[simp] theorem State.emit_columnOffset (bs : List Byte) (s : State) : (s.emit bs).columnOffset = s.columnOffset := by
  unfold State.emit; split <;> rfl
@[simp] theorem State.emit_printMode (bs : List Byte) (s : State) : (s.emit bs).printMode = s.printMode := by
  unfold State.emit; split <;> rfl
@[simp] theorem State.emit_inverseFont (bs : List Byte) (s : State) : (s.emit bs).inverseFont = s.inverseFont := by
  unfold State.emit; split <;> rfl
@[simp] theorem State.emit_status (bs : List Byte) (s : State) : (s.emit bs).status = s.status := by
  unfold State.emit; split <;> rfl
@[simp] theorem State.emit_cfg (bs : List Byte) (s : State) : (s.emit bs).cfg = s.cfg := by
  unfold State.emit; split <;> rfl
@[simp] theorem State.emit_inputs (bs : List Byte) (s : State) : (s.emit bs).inputs = s.inputs := by
  unfold State.emit; split <;> rfl
@[simp] theorem State.emit_answers (bs : List Byte) (s : State) : (s.emit bs).answers = s.answers.tail := by
  unfold State.emit; split <;> rfl
@[simp] theorem State.emit_panel (bs : List Byte) (s : State) : (s.emit bs).panel = s.panelAfter bs := by
  unfold State.emit; split <;> rfl
theorem State.emit_tx (bs : List Byte) (s : State) : (s.emit bs).tx =
    s.tx ++ [{ addr := s.address, bytes := bs, timeout := s.cfg.txTimeout, ok := s.nextAnswer }] := by
  unfold State.emit; split <;> rfl
theorem State.emit_txerr (bs : List Byte) (s : State) : (s.emit bs).txerr = (s.txerr || !s.nextAnswer) := by
  unfold State.emit; split <;> rename_i h <;> simp [h, State.raiseError]

/-! ## `raise` (R181) -/

@[simp] theorem State.raise_invalidAddress_chip (s : State) : (s.raiseError .invalidAddress).chip = s.chip := rfl
@[simp] theorem State.raise_invalidAddress_address (s : State) : (s.raiseError .invalidAddress).address = s.address := rfl
@[simp] theorem State.raise_invalidAddress_connected (s : State) : (s.raiseError .invalidAddress).connected = s.connected := rfl
@[simp] theorem State.raise_invalidAddress_line (s : State) : (s.raiseError .invalidAddress).line = s.line := rfl
@[simp] theorem State.raise_invalidAddress_column (s : State) : (s.raiseError .invalidAddress).column = s.column := rfl
@[simp] theorem State.raise_invalidAddress_lineOffset (s : State) : (s.raiseError .invalidAddress).lineOffset = s.lineOffset := rfl
@[simp] theorem State.raise_invalidAddress_columnOffset (s : State) : (s.raiseError .invalidAddress).columnOffset = s.columnOffset := rfl
@[simp] theorem State.raise_invalidAddress_printMode (s : State) : (s.raiseError .invalidAddress).printMode = s.printMode := rfl
@[simp] theorem State.raise_invalidAddress_inverseFont (s : State) : (s.raiseError .invalidAddress).inverseFont = s.inverseFont := rfl
@[simp] theorem State.raise_invalidAddress_txerr (s : State) : (s.raiseError .invalidAddress).txerr = s.txerr := rfl
@[simp] theorem State.raise_invalidAddress_cfg (s : State) : (s.raiseError .invalidAddress).cfg = s.cfg := rfl
@[simp] theorem State.raise_invalidAddress_inputs (s : State) : (s.raiseError .invalidAddress).inputs = s.inputs := rfl
@[simp] theorem State.raise_invalidAddress_answers (s : State) : (s.raiseError .invalidAddress).answers = s.answers := rfl
@[simp] theorem State.raise_invalidAddress_tx (s : State) : (s.raiseError .invalidAddress).tx = s.tx := rfl
@[simp] theorem State.raise_invalidAddress_panel (s : State) : (s.raiseError .invalidAddress).panel = s.panel := rfl
@[simp] theorem State.raise_deviceNotFound_chip (s : State) : (s.raiseError .deviceNotFound).chip = s.chip := rfl
@[simp] theorem State.raise_deviceNotFound_address (s : State) : (s.raiseError .deviceNotFound).address = s.address := rfl
@[simp] theorem State.raise_deviceNotFound_connected (s : State) : (s.raiseError .deviceNotFound).connected = s.connected := rfl
@[simp] theorem State.raise_deviceNotFound_line (s : State) : (s.raiseError .deviceNotFound).line = s.line := rfl
@[simp] theorem State.raise_deviceNotFound_column (s : State) : (s.raiseError .deviceNotFound).column = s.column := rfl
@[simp] theorem State.raise_deviceNotFound_lineOffset (s : State) : (s.raiseError .deviceNotFound).lineOffset = s.lineOffset := rfl
@[simp] theorem State.raise_deviceNotFound_columnOffset (s : State) : (s.raiseError .deviceNotFound).columnOffset = s.columnOffset := rfl
@[simp] theorem State.raise_deviceNotFound_printMode (s : State) : (s.raiseError .deviceNotFound).printMode = s.printMode := rfl
@[simp] theorem State.raise_deviceNotFound_inverseFont (s : State) : (s.raiseError .deviceNotFound).inverseFont = s.inverseFont := rfl
@[simp] theorem State.raise_deviceNotFound_txerr (s : State) : (s.raiseError .deviceNotFound).txerr = s.txerr := rfl
@[simp] theorem State.raise_deviceNotFound_cfg (s : State) : (s.raiseError .deviceNotFound).cfg = s.cfg := rfl
@[simp] theorem State.raise_deviceNotFound_inputs (s : State) : (s.raiseError .deviceNotFound).inputs = s.inputs := rfl
@[simp] theorem State.raise_deviceNotFound_answers (s : State) : (s.raiseError .deviceNotFound).answers = s.answers := rfl
@[simp] theorem State.raise_deviceNotFound_tx (s : State) : (s.raiseError .deviceNotFound).tx = s.tx := rfl
@[simp] theorem State.raise_deviceNotFound_panel (s : State) : (s.raiseError .deviceNotFound).panel = s.panel := rfl
@[simp] theorem State.raise_transportError_chip (s : State) : (s.raiseError .transportError).chip = s.chip := rfl
@[simp] theorem State.raise_transportError_address (s : State) : (s.raiseError .transportError).address = s.address := rfl
@[simp] theorem State.raise_transportError_connected (s : State) : (s.raiseError .transportError).connected = s.connected := rfl
@[simp] theorem State.raise_transportError_line (s : State) : (s.raiseError .transportError).line = s.line := rfl
@[simp] theorem State.raise_transportError_column (s : State) : (s.raiseError .transportError).column = s.column := rfl
@[simp] theorem State.raise_transportError_lineOffset (s : State) : (s.raiseError .transportError).lineOffset = s.lineOffset := rfl
@[simp] theorem State.raise_transportError_columnOffset (s : State) : (s.raiseError .transportError).columnOffset = s.columnOffset := rfl
@[simp] theorem State.raise_transportError_printMode (s : State) : (s.raiseError .transportError).printMode = s.printMode := rfl
@[simp] theorem State.raise_transportError_inverseFont (s : State) : (s.raiseError .transportError).inverseFont = s.inverseFont := rfl
@[simp] theorem State.raise_transportError_status (s : State) : (s.raiseError .transportError).status = s.status := rfl
@[simp] theorem State.raise_transportError_cfg (s : State) : (s.raiseError .transportError).cfg = s.cfg := rfl
@[simp] theorem State.raise_transportError_inputs (s : State) : (s.raiseError .transportError).inputs = s.inputs := rfl
@[simp] theorem State.raise_transportError_answers (s : State) : (s.raiseError .transportError).answers = s.answers := rfl
@[simp] theorem State.raise_transportError_tx (s : State) : (s.raiseError .transportError).tx = s.tx := rfl
@[simp] theorem State.raise_transportError_panel (s : State) : (s.raiseError .transportError).panel = s.panel := rfl
@[simp] theorem State.raise_invalidAddress_status (s : State) : (s.raiseError .invalidAddress).status = .invalidAddress := rfl
@[simp] theorem State.raise_deviceNotFound_status (s : State) : (s.raiseError .deviceNotFound).status = .deviceNotFound := rfl
@[simp] theorem State.raise_transportError_txerr (s : State) : (s.raiseError .transportError).txerr = true := rfl

/-! ## The block's reset: what it leaves alone (R200) -/

@[simp] theorem State.blockReset_cfg (s : State) : s.blockReset.cfg = s.cfg := rfl
@[simp] theorem State.blockReset_inputs (s : State) : s.blockReset.inputs = s.inputs := rfl
@[simp] theorem State.blockReset_answers (s : State) : s.blockReset.answers = s.answers := rfl
@[simp] theorem State.blockReset_tx (s : State) : s.blockReset.tx = s.tx := rfl
@[simp] theorem State.blockReset_panel (s : State) : s.blockReset.panel = s.panel := rfl

/-! ## A reset that ends an operation: the block as after any reset, the writes it had made stay (R200) -/

@[simp] theorem State.cutShort_core (s : State) (k : Nat) (u : State) :
    (s.cutShort k u).core = ({ State.resetWith s.cfg with inputs := s.inputs } : State).core := rfl
@[simp] theorem State.cutShort_cfg (s : State) (k : Nat) (u : State) : (s.cutShort k u).cfg = s.cfg := rfl
@[simp] theorem State.cutShort_inputs (s : State) (k : Nat) (u : State) : (s.cutShort k u).inputs = s.inputs := rfl
@[simp] theorem State.cutShort_txerr (s : State) (k : Nat) (u : State) : (s.cutShort k u).txerr = false := rfl

/-- What an operation had written when it was ended. -/
theorem State.cutShort_writes {s u : State} {evs : List TxWrite} (h : u.tx = s.tx ++ evs) (k : Nat) :
    (s.cutShort k u).tx = s.tx ++ evs.take k ∧ (s.cutShort k u).answers = s.answers.drop (evs.take k).length ∧
    (s.cutShort k u).panel = s.panel.afterWrites s.cfg u.chip (evs.take k) := by
  simp [State.cutShort, h]

/-- A probe carries no byte, so it puts the receiver at the start of a burst where it is answered and changes nothing else. -/
@[simp] theorem Panel.arrive_probe (c : Config) (width : Nat) (ok : Bool) (p : Panel) :
    p.arrive c width ok [] = if ok then p.atPhase .control else p := rfl

/-- Where no probe is among the writes, the controller has received them as they are. -/
theorem Panel.afterWrites_bursts {c : Config} {chip : Chip} {made : List TxWrite} (h : ∀ e ∈ made, e.bytes ≠ []) (p : Panel) :
    p.afterWrites c chip made = made.foldl (Panel.feed c (chipWidth chip)) p := by
  have : made.any (fun e => e.bytes.isEmpty) = false := by simpa using h
  simp [Panel.afterWrites, this]

/-- The writes of an INIT from its first on (R151): probes, then bursts of the power-on table in its order (R153), then, once the
table is whole, other bursts. -/
structure InitWrites (c : Config) (chip : Chip) (probes powerOn others : List TxWrite) : Prop where
  probes_empty : ∀ e ∈ probes, e.bytes = []
  bursts_ne_nil : ∀ e ∈ powerOn ++ others, e.bytes ≠ []
  of_table : powerOn.map TxWrite.bytes = ((powerOnBursts c chip).take powerOn.length).map fun b => frameCmd c b.toCmd
  whole : others ≠ [] → powerOn.length = (powerOnBursts c chip).length
  probed : probes = [] → powerOn ++ others = []

/-- No more power-on bursts than the table has. -/
theorem InitWrites.length_le {c : Config} {chip : Chip} {probes powerOn others : List TxWrite}
    (h : InitWrites c chip probes powerOn others) : powerOn.length ≤ (powerOnBursts c chip).length := by
  have := congrArg List.length h.of_table
  simp at this
  omega

/-- The first of an INIT's writes are an INIT's first writes. -/
theorem InitWrites.take {c : Config} {chip : Chip} {probes powerOn others : List TxWrite}
    (h : InitWrites c chip probes powerOn others) (k : Nat) :
    InitWrites c chip (probes.take k) (powerOn.take (k - probes.length))
      (others.take (k - probes.length - powerOn.length)) where
  probes_empty e he := h.probes_empty e (List.mem_of_mem_take he)
  bursts_ne_nil e he := h.bursts_ne_nil e
    ((List.mem_append.1 he).elim (fun m => List.mem_append_left _ (List.mem_of_mem_take m))
      fun m => List.mem_append_right _ (List.mem_of_mem_take m))
  of_table := by
    rw [List.map_take, h.of_table, ← List.map_take, List.take_take, List.length_take]
  whole ho := by
    have h1 := h.whole fun e => ho (by simp [e])
    have h2 : k - probes.length - powerOn.length ≠ 0 := fun e => ho (by simp [e])
    rw [List.length_take, ← h1]
    omega
  probed hp := by
    rcases List.take_eq_nil_iff.1 hp with rfl | hn
    · simp
    · obtain ⟨rfl, rfl⟩ := List.append_eq_nil_iff.1 (h.probed hn)
      simp

/-- The controller after an INIT's writes, up to any of them. -/
theorem Panel.afterWrites_init {c : Config} {chip : Chip} {probes powerOn others : List TxWrite}
    (h : InitWrites c chip probes powerOn others) (p : Panel) :
    p.afterWrites c chip (probes ++ (powerOn ++ others)) =
      others.foldl (Panel.feed c (chipWidth chip))
        (((powerOnBursts c chip).zip powerOn).foldl (Panel.feedPowerOn c)
          (probes.foldl (Panel.feed c (chipWidth chip)) p)) := by
  obtain ⟨hp, hb, -, hr, hn⟩ := id h
  have hl := h.length_le
  cases probes with
  | nil =>
    obtain ⟨rfl, rfl⟩ := List.append_eq_nil_iff.1 (hn rfl)
    simp [Panel.afterWrites]
  | cons e es =>
    have ha : ((e :: es) ++ (powerOn ++ others)).any (fun e => e.bytes.isEmpty) = true := by
      simp [hp e (List.mem_cons_self ..)]
    have ht : ((e :: es) ++ (powerOn ++ others)).takeWhile (fun e => e.bytes.isEmpty) = e :: es := by
      rw [List.takeWhile_append_of_pos fun x hx => by simp [hp x hx]]
      cases hq : powerOn ++ others with
      | nil => simp
      | cons y ys => simp [hb y (by rw [hq]; exact List.mem_cons_self ..)]
    have hd : ((e :: es) ++ (powerOn ++ others)).dropWhile (fun e => e.bytes.isEmpty) = powerOn ++ others := by
      rw [List.dropWhile_append_of_pos fun x hx => by simp [hp x hx]]
      cases hq : powerOn ++ others with
      | nil => rfl
      | cons y ys => simp [hb y (by rw [hq]; exact List.mem_cons_self ..)]
    have hz : (powerOnBursts c chip).zip (powerOn ++ others) = (powerOnBursts c chip).zip powerOn ∧
        (powerOn ++ others).drop (powerOnBursts c chip).length = others := by
      by_cases h : others = []
      · subst h; simpa using hl
      · rw [← hr h]
        refine ⟨?_, by simp⟩
        rw [← List.append_nil (powerOnBursts c chip), List.zip_append (by simpa using (hr h).symm)]
        simp
    simp only [Panel.afterWrites, ha, if_true, Panel.afterInit, ht, hd, hz.1, hz.2]

/-! ## The other events on the bus change the controller alone (R207) -/

@[simp] theorem State.strayByte_chip (b : Byte) (s : State) : (s.strayByte b).chip = s.chip := rfl
@[simp] theorem State.strayByte_address (b : Byte) (s : State) : (s.strayByte b).address = s.address := rfl
@[simp] theorem State.strayByte_connected (b : Byte) (s : State) : (s.strayByte b).connected = s.connected := rfl
@[simp] theorem State.strayByte_line (b : Byte) (s : State) : (s.strayByte b).line = s.line := rfl
@[simp] theorem State.strayByte_column (b : Byte) (s : State) : (s.strayByte b).column = s.column := rfl
@[simp] theorem State.strayByte_lineOffset (b : Byte) (s : State) : (s.strayByte b).lineOffset = s.lineOffset := rfl
@[simp] theorem State.strayByte_columnOffset (b : Byte) (s : State) : (s.strayByte b).columnOffset = s.columnOffset := rfl
@[simp] theorem State.strayByte_printMode (b : Byte) (s : State) : (s.strayByte b).printMode = s.printMode := rfl
@[simp] theorem State.strayByte_inverseFont (b : Byte) (s : State) : (s.strayByte b).inverseFont = s.inverseFont := rfl
@[simp] theorem State.strayByte_status (b : Byte) (s : State) : (s.strayByte b).status = s.status := rfl
@[simp] theorem State.strayByte_txerr (b : Byte) (s : State) : (s.strayByte b).txerr = s.txerr := rfl
@[simp] theorem State.strayByte_cfg (b : Byte) (s : State) : (s.strayByte b).cfg = s.cfg := rfl
@[simp] theorem State.strayByte_inputs (b : Byte) (s : State) : (s.strayByte b).inputs = s.inputs := rfl
@[simp] theorem State.strayByte_answers (b : Byte) (s : State) : (s.strayByte b).answers = s.answers := rfl
@[simp] theorem State.strayByte_tx (b : Byte) (s : State) : (s.strayByte b).tx = s.tx := rfl
@[simp] theorem State.busStop_chip (s : State) : (s.busStop).chip = s.chip := rfl
@[simp] theorem State.busStop_address (s : State) : (s.busStop).address = s.address := rfl
@[simp] theorem State.busStop_connected (s : State) : (s.busStop).connected = s.connected := rfl
@[simp] theorem State.busStop_line (s : State) : (s.busStop).line = s.line := rfl
@[simp] theorem State.busStop_column (s : State) : (s.busStop).column = s.column := rfl
@[simp] theorem State.busStop_lineOffset (s : State) : (s.busStop).lineOffset = s.lineOffset := rfl
@[simp] theorem State.busStop_columnOffset (s : State) : (s.busStop).columnOffset = s.columnOffset := rfl
@[simp] theorem State.busStop_printMode (s : State) : (s.busStop).printMode = s.printMode := rfl
@[simp] theorem State.busStop_inverseFont (s : State) : (s.busStop).inverseFont = s.inverseFont := rfl
@[simp] theorem State.busStop_status (s : State) : (s.busStop).status = s.status := rfl
@[simp] theorem State.busStop_txerr (s : State) : (s.busStop).txerr = s.txerr := rfl
@[simp] theorem State.busStop_cfg (s : State) : (s.busStop).cfg = s.cfg := rfl
@[simp] theorem State.busStop_inputs (s : State) : (s.busStop).inputs = s.inputs := rfl
@[simp] theorem State.busStop_answers (s : State) : (s.busStop).answers = s.answers := rfl
@[simp] theorem State.busStop_tx (s : State) : (s.busStop).tx = s.tx := rfl
@[simp] theorem State.controllerReset_chip (s : State) : (s.controllerReset).chip = s.chip := rfl
@[simp] theorem State.controllerReset_address (s : State) : (s.controllerReset).address = s.address := rfl
@[simp] theorem State.controllerReset_connected (s : State) : (s.controllerReset).connected = s.connected := rfl
@[simp] theorem State.controllerReset_line (s : State) : (s.controllerReset).line = s.line := rfl
@[simp] theorem State.controllerReset_column (s : State) : (s.controllerReset).column = s.column := rfl
@[simp] theorem State.controllerReset_lineOffset (s : State) : (s.controllerReset).lineOffset = s.lineOffset := rfl
@[simp] theorem State.controllerReset_columnOffset (s : State) : (s.controllerReset).columnOffset = s.columnOffset := rfl
@[simp] theorem State.controllerReset_printMode (s : State) : (s.controllerReset).printMode = s.printMode := rfl
@[simp] theorem State.controllerReset_inverseFont (s : State) : (s.controllerReset).inverseFont = s.inverseFont := rfl
@[simp] theorem State.controllerReset_status (s : State) : (s.controllerReset).status = s.status := rfl
@[simp] theorem State.controllerReset_txerr (s : State) : (s.controllerReset).txerr = s.txerr := rfl
@[simp] theorem State.controllerReset_cfg (s : State) : (s.controllerReset).cfg = s.cfg := rfl
@[simp] theorem State.controllerReset_inputs (s : State) : (s.controllerReset).inputs = s.inputs := rfl
@[simp] theorem State.controllerReset_answers (s : State) : (s.controllerReset).answers = s.answers := rfl
@[simp] theorem State.controllerReset_tx (s : State) : (s.controllerReset).tx = s.tx := rfl

/-! ## The controller's registers after each wire instruction (R83 to R89, R93) -/

@[simp] theorem Panel.ctrlMore_phase (p : Panel) : (p.ctrlMore).phase = .opcodeMore := rfl
@[simp] theorem Panel.ctrlMore_page (p : Panel) : (p.ctrlMore).page = p.page := rfl
@[simp] theorem Panel.ctrlMore_columnHigh (p : Panel) : (p.ctrlMore).columnHigh = p.columnHigh := rfl
@[simp] theorem Panel.ctrlMore_columnLow (p : Panel) : (p.ctrlMore).columnLow = p.columnLow := rfl
@[simp] theorem Panel.ctrlMore_startLine (p : Panel) : (p.ctrlMore).startLine = p.startLine := rfl
@[simp] theorem Panel.ctrlMore_inverse (p : Panel) : (p.ctrlMore).inverse = p.inverse := rfl
@[simp] theorem Panel.ctrlMore_segFlipped (p : Panel) : (p.ctrlMore).segFlipped = p.segFlipped := rfl
@[simp] theorem Panel.ctrlMore_scanFlipped (p : Panel) : (p.ctrlMore).scanFlipped = p.scanFlipped := rfl
@[simp] theorem Panel.ctrlMore_ram (p : Panel) : (p.ctrlMore).ram = p.ram := rfl
@[simp] theorem Panel.ctrlMore_draws (p : Panel) : (p.ctrlMore).draws = p.draws := rfl
@[simp] theorem Panel.ctrlLast_phase (p : Panel) : (p.ctrlLast).phase = .opcodeLast := rfl
@[simp] theorem Panel.ctrlLast_page (p : Panel) : (p.ctrlLast).page = p.page := rfl
@[simp] theorem Panel.ctrlLast_columnHigh (p : Panel) : (p.ctrlLast).columnHigh = p.columnHigh := rfl
@[simp] theorem Panel.ctrlLast_columnLow (p : Panel) : (p.ctrlLast).columnLow = p.columnLow := rfl
@[simp] theorem Panel.ctrlLast_startLine (p : Panel) : (p.ctrlLast).startLine = p.startLine := rfl
@[simp] theorem Panel.ctrlLast_inverse (p : Panel) : (p.ctrlLast).inverse = p.inverse := rfl
@[simp] theorem Panel.ctrlLast_segFlipped (p : Panel) : (p.ctrlLast).segFlipped = p.segFlipped := rfl
@[simp] theorem Panel.ctrlLast_scanFlipped (p : Panel) : (p.ctrlLast).scanFlipped = p.scanFlipped := rfl
@[simp] theorem Panel.ctrlLast_ram (p : Panel) : (p.ctrlLast).ram = p.ram := rfl
@[simp] theorem Panel.ctrlLast_draws (p : Panel) : (p.ctrlLast).draws = p.draws := rfl
@[simp] theorem Panel.ctrlData_phase (p : Panel) : (p.ctrlData).phase = .data := rfl
@[simp] theorem Panel.ctrlData_page (p : Panel) : (p.ctrlData).page = p.page := rfl
@[simp] theorem Panel.ctrlData_columnHigh (p : Panel) : (p.ctrlData).columnHigh = p.columnHigh := rfl
@[simp] theorem Panel.ctrlData_columnLow (p : Panel) : (p.ctrlData).columnLow = p.columnLow := rfl
@[simp] theorem Panel.ctrlData_startLine (p : Panel) : (p.ctrlData).startLine = p.startLine := rfl
@[simp] theorem Panel.ctrlData_inverse (p : Panel) : (p.ctrlData).inverse = p.inverse := rfl
@[simp] theorem Panel.ctrlData_segFlipped (p : Panel) : (p.ctrlData).segFlipped = p.segFlipped := rfl
@[simp] theorem Panel.ctrlData_scanFlipped (p : Panel) : (p.ctrlData).scanFlipped = p.scanFlipped := rfl
@[simp] theorem Panel.ctrlData_ram (p : Panel) : (p.ctrlData).ram = p.ram := rfl
@[simp] theorem Panel.ctrlData_draws (p : Panel) : (p.ctrlData).draws = p.draws := rfl
@[simp] theorem Panel.pageAddress_phase (x : BitVec 3) (p : Panel) : (Panel.pageAddress x p).phase = phaseAfterOpcode p.phase := rfl
@[simp] theorem Panel.pageAddress_page (x : BitVec 3) (p : Panel) : (Panel.pageAddress x p).page = x := rfl
@[simp] theorem Panel.pageAddress_columnHigh (x : BitVec 3) (p : Panel) : (Panel.pageAddress x p).columnHigh = p.columnHigh := rfl
@[simp] theorem Panel.pageAddress_columnLow (x : BitVec 3) (p : Panel) : (Panel.pageAddress x p).columnLow = p.columnLow := rfl
@[simp] theorem Panel.pageAddress_startLine (x : BitVec 3) (p : Panel) : (Panel.pageAddress x p).startLine = p.startLine := rfl
@[simp] theorem Panel.pageAddress_inverse (x : BitVec 3) (p : Panel) : (Panel.pageAddress x p).inverse = p.inverse := rfl
@[simp] theorem Panel.pageAddress_segFlipped (x : BitVec 3) (p : Panel) : (Panel.pageAddress x p).segFlipped = p.segFlipped := rfl
@[simp] theorem Panel.pageAddress_scanFlipped (x : BitVec 3) (p : Panel) : (Panel.pageAddress x p).scanFlipped = p.scanFlipped := rfl
@[simp] theorem Panel.pageAddress_ram (x : BitVec 3) (p : Panel) : (Panel.pageAddress x p).ram = p.ram := rfl
@[simp] theorem Panel.pageAddress_draws (x : BitVec 3) (p : Panel) : (Panel.pageAddress x p).draws = p.draws := rfl
@[simp] theorem Panel.columnAddressLow_phase (x : BitVec 4) (p : Panel) : (Panel.columnAddressLow x p).phase = phaseAfterOpcode p.phase := rfl
@[simp] theorem Panel.columnAddressLow_page (x : BitVec 4) (p : Panel) : (Panel.columnAddressLow x p).page = p.page := rfl
@[simp] theorem Panel.columnAddressLow_columnHigh (x : BitVec 4) (p : Panel) : (Panel.columnAddressLow x p).columnHigh = p.columnHigh := rfl
@[simp] theorem Panel.columnAddressLow_columnLow (x : BitVec 4) (p : Panel) : (Panel.columnAddressLow x p).columnLow = x := rfl
@[simp] theorem Panel.columnAddressLow_startLine (x : BitVec 4) (p : Panel) : (Panel.columnAddressLow x p).startLine = p.startLine := rfl
@[simp] theorem Panel.columnAddressLow_inverse (x : BitVec 4) (p : Panel) : (Panel.columnAddressLow x p).inverse = p.inverse := rfl
@[simp] theorem Panel.columnAddressLow_segFlipped (x : BitVec 4) (p : Panel) : (Panel.columnAddressLow x p).segFlipped = p.segFlipped := rfl
@[simp] theorem Panel.columnAddressLow_scanFlipped (x : BitVec 4) (p : Panel) : (Panel.columnAddressLow x p).scanFlipped = p.scanFlipped := rfl
@[simp] theorem Panel.columnAddressLow_ram (x : BitVec 4) (p : Panel) : (Panel.columnAddressLow x p).ram = p.ram := rfl
@[simp] theorem Panel.columnAddressLow_draws (x : BitVec 4) (p : Panel) : (Panel.columnAddressLow x p).draws = p.draws := rfl
@[simp] theorem Panel.columnAddressHigh_phase (x : BitVec 4) (p : Panel) : (Panel.columnAddressHigh x p).phase = phaseAfterOpcode p.phase := rfl
@[simp] theorem Panel.columnAddressHigh_page (x : BitVec 4) (p : Panel) : (Panel.columnAddressHigh x p).page = p.page := rfl
@[simp] theorem Panel.columnAddressHigh_columnHigh (x : BitVec 4) (p : Panel) : (Panel.columnAddressHigh x p).columnHigh = x := rfl
@[simp] theorem Panel.columnAddressHigh_columnLow (x : BitVec 4) (p : Panel) : (Panel.columnAddressHigh x p).columnLow = p.columnLow := rfl
@[simp] theorem Panel.columnAddressHigh_startLine (x : BitVec 4) (p : Panel) : (Panel.columnAddressHigh x p).startLine = p.startLine := rfl
@[simp] theorem Panel.columnAddressHigh_inverse (x : BitVec 4) (p : Panel) : (Panel.columnAddressHigh x p).inverse = p.inverse := rfl
@[simp] theorem Panel.columnAddressHigh_segFlipped (x : BitVec 4) (p : Panel) : (Panel.columnAddressHigh x p).segFlipped = p.segFlipped := rfl
@[simp] theorem Panel.columnAddressHigh_scanFlipped (x : BitVec 4) (p : Panel) : (Panel.columnAddressHigh x p).scanFlipped = p.scanFlipped := rfl
@[simp] theorem Panel.columnAddressHigh_ram (x : BitVec 4) (p : Panel) : (Panel.columnAddressHigh x p).ram = p.ram := rfl
@[simp] theorem Panel.columnAddressHigh_draws (x : BitVec 4) (p : Panel) : (Panel.columnAddressHigh x p).draws = p.draws := rfl
@[simp] theorem Panel.setStartLine_phase (x : BitVec 6) (p : Panel) : (Panel.setStartLine x p).phase = phaseAfterOpcode p.phase := rfl
@[simp] theorem Panel.setStartLine_page (x : BitVec 6) (p : Panel) : (Panel.setStartLine x p).page = p.page := rfl
@[simp] theorem Panel.setStartLine_columnHigh (x : BitVec 6) (p : Panel) : (Panel.setStartLine x p).columnHigh = p.columnHigh := rfl
@[simp] theorem Panel.setStartLine_columnLow (x : BitVec 6) (p : Panel) : (Panel.setStartLine x p).columnLow = p.columnLow := rfl
@[simp] theorem Panel.setStartLine_startLine (x : BitVec 6) (p : Panel) : (Panel.setStartLine x p).startLine = x := rfl
@[simp] theorem Panel.setStartLine_inverse (x : BitVec 6) (p : Panel) : (Panel.setStartLine x p).inverse = p.inverse := rfl
@[simp] theorem Panel.setStartLine_segFlipped (x : BitVec 6) (p : Panel) : (Panel.setStartLine x p).segFlipped = p.segFlipped := rfl
@[simp] theorem Panel.setStartLine_scanFlipped (x : BitVec 6) (p : Panel) : (Panel.setStartLine x p).scanFlipped = p.scanFlipped := rfl
@[simp] theorem Panel.setStartLine_ram (x : BitVec 6) (p : Panel) : (Panel.setStartLine x p).ram = p.ram := rfl
@[simp] theorem Panel.setStartLine_draws (x : BitVec 6) (p : Panel) : (Panel.setStartLine x p).draws = p.draws := rfl
@[simp] theorem Panel.setInverse_phase (x : Bool) (p : Panel) : (Panel.setInverse x p).phase = phaseAfterOpcode p.phase := rfl
@[simp] theorem Panel.setInverse_page (x : Bool) (p : Panel) : (Panel.setInverse x p).page = p.page := rfl
@[simp] theorem Panel.setInverse_columnHigh (x : Bool) (p : Panel) : (Panel.setInverse x p).columnHigh = p.columnHigh := rfl
@[simp] theorem Panel.setInverse_columnLow (x : Bool) (p : Panel) : (Panel.setInverse x p).columnLow = p.columnLow := rfl
@[simp] theorem Panel.setInverse_startLine (x : Bool) (p : Panel) : (Panel.setInverse x p).startLine = p.startLine := rfl
@[simp] theorem Panel.setInverse_inverse (x : Bool) (p : Panel) : (Panel.setInverse x p).inverse = x := rfl
@[simp] theorem Panel.setInverse_segFlipped (x : Bool) (p : Panel) : (Panel.setInverse x p).segFlipped = p.segFlipped := rfl
@[simp] theorem Panel.setInverse_scanFlipped (x : Bool) (p : Panel) : (Panel.setInverse x p).scanFlipped = p.scanFlipped := rfl
@[simp] theorem Panel.setInverse_ram (x : Bool) (p : Panel) : (Panel.setInverse x p).ram = p.ram := rfl
@[simp] theorem Panel.setInverse_draws (x : Bool) (p : Panel) : (Panel.setInverse x p).draws = p.draws := rfl
@[simp] theorem Panel.setSegment_phase (x : Bool) (p : Panel) : (Panel.setSegment x p).phase = phaseAfterOpcode p.phase := rfl
@[simp] theorem Panel.setSegment_page (x : Bool) (p : Panel) : (Panel.setSegment x p).page = p.page := rfl
@[simp] theorem Panel.setSegment_columnHigh (x : Bool) (p : Panel) : (Panel.setSegment x p).columnHigh = p.columnHigh := rfl
@[simp] theorem Panel.setSegment_columnLow (x : Bool) (p : Panel) : (Panel.setSegment x p).columnLow = p.columnLow := rfl
@[simp] theorem Panel.setSegment_startLine (x : Bool) (p : Panel) : (Panel.setSegment x p).startLine = p.startLine := rfl
@[simp] theorem Panel.setSegment_inverse (x : Bool) (p : Panel) : (Panel.setSegment x p).inverse = p.inverse := rfl
@[simp] theorem Panel.setSegment_segFlipped (x : Bool) (p : Panel) : (Panel.setSegment x p).segFlipped = x := rfl
@[simp] theorem Panel.setSegment_scanFlipped (x : Bool) (p : Panel) : (Panel.setSegment x p).scanFlipped = p.scanFlipped := rfl
@[simp] theorem Panel.setSegment_ram (x : Bool) (p : Panel) : (Panel.setSegment x p).ram = p.ram := rfl
@[simp] theorem Panel.setSegment_draws (x : Bool) (p : Panel) : (Panel.setSegment x p).draws = p.draws := rfl
@[simp] theorem Panel.setScan_phase (x : Bool) (p : Panel) : (Panel.setScan x p).phase = phaseAfterOpcode p.phase := rfl
@[simp] theorem Panel.setScan_page (x : Bool) (p : Panel) : (Panel.setScan x p).page = p.page := rfl
@[simp] theorem Panel.setScan_columnHigh (x : Bool) (p : Panel) : (Panel.setScan x p).columnHigh = p.columnHigh := rfl
@[simp] theorem Panel.setScan_columnLow (x : Bool) (p : Panel) : (Panel.setScan x p).columnLow = p.columnLow := rfl
@[simp] theorem Panel.setScan_startLine (x : Bool) (p : Panel) : (Panel.setScan x p).startLine = p.startLine := rfl
@[simp] theorem Panel.setScan_inverse (x : Bool) (p : Panel) : (Panel.setScan x p).inverse = p.inverse := rfl
@[simp] theorem Panel.setScan_segFlipped (x : Bool) (p : Panel) : (Panel.setScan x p).segFlipped = p.segFlipped := rfl
@[simp] theorem Panel.setScan_scanFlipped (x : Bool) (p : Panel) : (Panel.setScan x p).scanFlipped = x := rfl
@[simp] theorem Panel.setScan_ram (x : Bool) (p : Panel) : (Panel.setScan x p).ram = p.ram := rfl
@[simp] theorem Panel.setScan_draws (x : Bool) (p : Panel) : (Panel.setScan x p).draws = p.draws := rfl

/-! ## The receiver's position set -/

@[simp] theorem Panel.atPhase_phase (x : WirePhase) (p : Panel) : (p.atPhase x).phase = x := rfl
@[simp] theorem Panel.atPhase_page (x : WirePhase) (p : Panel) : (p.atPhase x).page = p.page := rfl
@[simp] theorem Panel.atPhase_columnHigh (x : WirePhase) (p : Panel) : (p.atPhase x).columnHigh = p.columnHigh := rfl
@[simp] theorem Panel.atPhase_columnLow (x : WirePhase) (p : Panel) : (p.atPhase x).columnLow = p.columnLow := rfl
@[simp] theorem Panel.atPhase_startLine (x : WirePhase) (p : Panel) : (p.atPhase x).startLine = p.startLine := rfl
@[simp] theorem Panel.atPhase_inverse (x : WirePhase) (p : Panel) : (p.atPhase x).inverse = p.inverse := rfl
@[simp] theorem Panel.atPhase_segFlipped (x : WirePhase) (p : Panel) : (p.atPhase x).segFlipped = p.segFlipped := rfl
@[simp] theorem Panel.atPhase_scanFlipped (x : WirePhase) (p : Panel) : (p.atPhase x).scanFlipped = p.scanFlipped := rfl
@[simp] theorem Panel.atPhase_ram (x : WirePhase) (p : Panel) : (p.atPhase x).ram = p.ram := rfl
@[simp] theorem Panel.atPhase_draws (x : WirePhase) (p : Panel) : (p.atPhase x).draws = p.draws := rfl
@[simp] theorem Panel.atPhase_atPhase (x y : WirePhase) (p : Panel) : (p.atPhase x).atPhase y = p.atPhase y := rfl
@[simp] theorem Panel.atPhase_column (x : WirePhase) (p : Panel) : (p.atPhase x).column = p.column := rfl
@[simp] theorem Panel.atPhase_self (p : Panel) : p.atPhase p.phase = p := rfl

/-! ## The controller's column pointer, set whole -/

@[simp] theorem Panel.setColumn_phase (x : BitVec 8) (p : Panel) : (p.setColumn x).phase = p.phase := rfl
@[simp] theorem Panel.setColumn_page (x : BitVec 8) (p : Panel) : (p.setColumn x).page = p.page := rfl
@[simp] theorem Panel.setColumn_startLine (x : BitVec 8) (p : Panel) : (p.setColumn x).startLine = p.startLine := rfl
@[simp] theorem Panel.setColumn_inverse (x : BitVec 8) (p : Panel) : (p.setColumn x).inverse = p.inverse := rfl
@[simp] theorem Panel.setColumn_segFlipped (x : BitVec 8) (p : Panel) : (p.setColumn x).segFlipped = p.segFlipped := rfl
@[simp] theorem Panel.setColumn_scanFlipped (x : BitVec 8) (p : Panel) : (p.setColumn x).scanFlipped = p.scanFlipped := rfl
@[simp] theorem Panel.setColumn_ram (x : BitVec 8) (p : Panel) : (p.setColumn x).ram = p.ram := rfl
@[simp] theorem Panel.setColumn_draws (x : BitVec 8) (p : Panel) : (p.setColumn x).draws = p.draws := rfl

/-! ## An unknown controller keeps its receiver's position and knows no RAM byte -/

@[simp] theorem Panel.unknown_phase (p : Panel) : p.unknown.phase = p.phase := rfl
@[simp] theorem Panel.unknown_ram (p : Panel) : p.unknown.ram = [] := rfl

/-! ## After a write of which an unknown part arrived, and after a power-on byte of unknown effect -/

@[simp] theorem Panel.lost_phase (p : Panel) : p.lost.phase = .control := rfl
@[simp] theorem Panel.lost_ram (p : Panel) : p.lost.ram = [] := rfl
@[simp] theorem Panel.configured_phase (p : Panel) : p.configured.phase = p.phase := rfl
@[simp] theorem Panel.configured_segFlipped (p : Panel) : p.configured.segFlipped = p.segFlipped := rfl
@[simp] theorem Panel.configured_scanFlipped (p : Panel) : p.configured.scanFlipped = p.scanFlipped := rfl
@[simp] theorem Panel.configured_ram (p : Panel) : p.configured.ram = [] := rfl

/-! ## `core` forgets what writes leave behind and nothing else -/

@[simp] theorem State.core_chip (s : State) : s.core.chip = s.chip := rfl
@[simp] theorem State.core_address (s : State) : s.core.address = s.address := rfl
@[simp] theorem State.core_connected (s : State) : s.core.connected = s.connected := rfl
@[simp] theorem State.core_line (s : State) : s.core.line = s.line := rfl
@[simp] theorem State.core_column (s : State) : s.core.column = s.column := rfl
@[simp] theorem State.core_lineOffset (s : State) : s.core.lineOffset = s.lineOffset := rfl
@[simp] theorem State.core_columnOffset (s : State) : s.core.columnOffset = s.columnOffset := rfl
@[simp] theorem State.core_printMode (s : State) : s.core.printMode = s.printMode := rfl
@[simp] theorem State.core_inverseFont (s : State) : s.core.inverseFont = s.inverseFont := rfl
@[simp] theorem State.core_status (s : State) : s.core.status = s.status := rfl
@[simp] theorem State.core_cfg (s : State) : s.core.cfg = s.cfg := rfl
@[simp] theorem State.core_inputs (s : State) : s.core.inputs = s.inputs := rfl

end Sys2Proof.Machine
end

