-- ==== Sys2Proof/Laws/Panel.lean ====
section
/-! SUPPORT. What the controller makes of the block's bursts: a command burst is its opcodes in order, a data burst fills
consecutive cells of a page (R57, R93). -/

namespace Sys2Proof.Machine

/-! ## The column pointer -/

@[simp] theorem Panel.setColumn_column (x : BitVec 8) (p : Panel) : (p.setColumn x).column = x := by
  apply BitVec.eq_of_toNat_eq
  have := x.isLt
  simp only [Panel.column, Panel.setColumn, BitVec.toNat_append, BitVec.extractLsb'_toNat, Nat.shiftRight_eq_div_pow]
  rw [← Nat.shiftLeft_add_eq_or_of_lt (by omega)]
  simp only [Nat.shiftLeft_eq]
  omega

/-- The column pointer as a number. -/
theorem Panel.column_toNat (p : Panel) : p.column.toNat = p.columnHigh.toNat * 16 + p.columnLow.toNat := by
  have h1 := p.columnHigh.isLt
  have h2 := p.columnLow.isLt
  simp only [Panel.column, BitVec.toNat_append]
  rw [← Nat.shiftLeft_add_eq_or_of_lt (by omega)]
  simp only [Nat.shiftLeft_eq]

@[simp] theorem Panel.setColumn_setColumn (x y : BitVec 8) (p : Panel) : (p.setColumn x).setColumn y = p.setColumn y := rfl

@[simp] theorem Panel.setColumn_atPhase (x : BitVec 8) (ph : WirePhase) (p : Panel) :
    (p.atPhase ph).setColumn x = (p.setColumn x).atPhase ph := rfl

/-! ## One byte -/

/-- A wire instruction's effect does not depend on where the receiver stands, but for the position it leaves. -/
theorem wireEffect_atPhase (i : Instr) (p : Panel) (ph ph' : WirePhase) :
    (wireEffect i (p.atPhase ph)).atPhase ph' = (wireEffect i p).atPhase ph' := by
  cases i <;> rfl

/-- An opcode moves the receiver as R93 says. -/
theorem wireEffect_phase (i : Instr) (p : Panel) (hh : i.isHost = false) (hc : i.isControl = false) :
    (wireEffect i p).phase = phaseAfterOpcode p.phase := by
  cases i <;> simp_all [Instr.isHost, Instr.isControl, wireEffect]

/-- In opcode position only opcodes are decoded. -/
theorem decodeOpcode_kind {c : Config} {b : Byte} {i : Instr} (h : decodeOpcode c b = .ok i) :
    i.isHost = false ∧ i.isControl = false := by
  unfold decodeOpcode at h
  repeat' split at h
  all_goals first
    | (cases h; exact ⟨rfl, rfl⟩)
    | cases h

/-- Receiving `CTRL_MORE` where a burst begins. -/
theorem Panel.receive_ctrlMore (c : Config) (w : Nat) (p : Panel) :
    (p.atPhase .control).receive c w c.ctrlMore = p.atPhase .opcodeMore := by
  simp [Panel.receive, decodeWire, decodeControl, wireEffect, Panel.ctrlMore]

/-- Receiving `CTRL_LAST` where a control byte stands. -/
theorem Panel.receive_ctrlLast {c : Config} (hc : c.Valid) (w : Nat) (p : Panel) :
    (p.atPhase .control).receive c w c.ctrlLast = p.atPhase .opcodeLast := by
  have h : ¬ c.ctrlLast = c.ctrlMore := fun e => hc.1.1 e.symm
  simp [Panel.receive, decodeWire, decodeControl, wireEffect, Panel.ctrlLast, h]

/-- Receiving `CTRL_DATA` where a control byte stands. -/
theorem Panel.receive_ctrlData {c : Config} (hc : c.Valid) (w : Nat) (p : Panel) :
    (p.atPhase .control).receive c w c.ctrlData = p.atPhase .data := by
  have h1 : ¬ c.ctrlData = c.ctrlMore := fun e => hc.1.2.1 e.symm
  have h2 : ¬ c.ctrlData = c.ctrlLast := fun e => hc.1.2.2 e.symm
  simp [Panel.receive, decodeWire, decodeControl, wireEffect, Panel.ctrlData, h1, h2]

/-- Receiving an opcode that another control byte follows. -/
theorem Panel.receive_opcodeMore {c : Config} {o : Byte} {i : Instr} (ho : decodeOpcode c o = .ok i) (w : Nat) (p : Panel) :
    (p.atPhase .opcodeMore).receive c w o = (wireEffect i p).atPhase .control := by
  obtain ⟨hh, hk⟩ := decodeOpcode_kind ho
  have e : (p.atPhase .opcodeMore).receive c w o = wireEffect i (p.atPhase .opcodeMore) := by
    simp [Panel.receive, decodeWire, ho]
  have f := wireEffect_phase i (p.atPhase .opcodeMore) hh hk
  rw [e, ← wireEffect_atPhase i p .opcodeMore .control]
  conv_lhs => rw [← Panel.atPhase_self (wireEffect i (p.atPhase .opcodeMore)), f]
  rfl

/-- Receiving the opcode that ends its burst. -/
theorem Panel.receive_opcodeLast {c : Config} {o : Byte} {i : Instr} (ho : decodeOpcode c o = .ok i) (w : Nat) (p : Panel) :
    (p.atPhase .opcodeLast).receive c w o = (wireEffect i p).atPhase .closed := by
  obtain ⟨hh, hk⟩ := decodeOpcode_kind ho
  have e : (p.atPhase .opcodeLast).receive c w o = wireEffect i (p.atPhase .opcodeLast) := by
    simp [Panel.receive, decodeWire, ho]
  have f := wireEffect_phase i (p.atPhase .opcodeLast) hh hk
  rw [e, ← wireEffect_atPhase i p .opcodeLast .closed]
  conv_lhs => rw [← Panel.atPhase_self (wireEffect i (p.atPhase .opcodeLast)), f]
  rfl

/-- Receiving a data byte. -/
theorem Panel.receive_data (c : Config) (w : Nat) (p : Panel) (b : Byte) :
    (p.atPhase .data).receive c w b = (p.atPhase .data).dataByte w b := by
  simp [Panel.receive, decodeWire, Panel.otherByte]

/-! ## Command bursts -/

/-- The bytes of a command burst before its last opcode. -/
theorem Panel.receive_front {c : Config} (w : Nat) (front : List Byte) (is : List Instr)
    (h : front.map (decodeOpcode c) = is.map .ok) (p : Panel) :
    (front.flatMap (fun o => [c.ctrlMore, o])).foldl (Panel.receive c w) (p.atPhase .control) =
      (is.foldl (fun q i => wireEffect i q) p).atPhase .control := by
  induction front generalizing is p with
  | nil =>
    cases is with
    | nil => rfl
    | cons i is => simp at h
  | cons o front ih =>
    cases is with
    | nil => simp at h
    | cons i is =>
      simp only [List.map_cons, List.cons.injEq] at h
      simp only [List.flatMap_cons, List.foldl_append, List.foldl_cons, List.foldl_nil, Panel.receive_ctrlMore,
        Panel.receive_opcodeMore h.1]
      exact ih is h.2 _

/-- A command burst is its opcodes, in order (R93). -/
theorem Panel.deliver_frameCmd {c : Config} (hc : c.Valid) (w : Nat) (b : CmdBurst) (is : List Instr)
    (h : b.opcodes.map (decodeOpcode c) = is.map .ok) (p : Panel) :
    p.deliver c w (b.front.flatMap (fun o => [c.ctrlMore, o]) ++ [c.ctrlLast, b.last]) =
      (is.foldl (fun q i => wireEffect i q) p).atPhase .control := by
  obtain ⟨is', i, rfl⟩ : ∃ is' i, is = is' ++ [i] := by
    rcases List.eq_nil_or_concat is with rfl | ⟨l, x, rfl⟩
    · simp [CmdBurst.opcodes] at h
    · exact ⟨l, x, List.concat_eq_append⟩
  have hl : b.front.length = is'.length := by
    have := congrArg List.length h
    simpa [CmdBurst.opcodes] using this
  simp only [CmdBurst.opcodes, List.map_append, List.map_cons, List.map_nil] at h
  obtain ⟨h1, h2⟩ := List.append_inj h (by simpa using hl)
  simp only [List.cons.injEq, and_true] at h2
  simp only [Panel.deliver, List.foldl_append, Panel.receive_front w b.front is' h1, List.foldl_cons, List.foldl_nil,
    Panel.receive_ctrlLast hc, Panel.receive_opcodeLast h2, Panel.atPhase_atPhase]

/-! ## Data bursts -/

/-- Consecutive bytes stored from an address on. -/
def Memory.writeRun : Memory → Nat → List Byte → Memory
  | m, _, [] => m
  | m, a, b :: bs => Memory.writeRun (m.write a b) (a + 1) bs

theorem Memory.read_writeRun (bs : List Byte) (m : Memory) (a x : Nat) :
    (m.writeRun a bs).read x = if a ≤ x ∧ x < a + bs.length then bs[x - a]? else m.read x := by
  induction bs generalizing m a with
  | nil => simp [Memory.writeRun]
  | cons b bs ih =>
    simp only [Memory.writeRun, ih, List.length_cons]
    by_cases hx : x = a
    · subst hx
      have h2 : x ≤ x ∧ x < x + (bs.length + 1) := by omega
      simp [h2, Memory.read_write_same]
    · rw [Memory.read_write_other _ _ _ _ hx]
      by_cases h : a + 1 ≤ x ∧ x < a + 1 + bs.length
      · have h2 : a ≤ x ∧ x < a + (bs.length + 1) := by omega
        obtain ⟨k, rfl⟩ : ∃ k, x = a + 1 + k := ⟨x - (a + 1), by omega⟩
        simp only [h, h2, and_self, if_true]
        rw [show a + 1 + k - (a + 1) = k by omega, show a + 1 + k - a = k + 1 by omega]
        simp
      · have h2 : ¬ (a ≤ x ∧ x < a + (bs.length + 1)) := by omega
        rw [if_neg h, if_neg h2]

theorem Memory.writeRun_wf (bs : List Byte) (m : Memory) (a : Nat) (h : m.wf) : (m.writeRun a bs).wf := by
  induction bs generalizing m a with
  | nil => exact h
  | cons b bs ih => exact ih _ _ (Memory.write_wf m a b h)

/-- Setting the column pointer to itself. -/
theorem Panel.setColumn_self (p : Panel) : p.setColumn p.column = p := by
  have e := p.column_toNat
  have h1 := p.columnHigh.isLt
  have h2 := p.columnLow.isLt
  have hh : p.column.extractLsb' 4 4 = p.columnHigh := by
    apply BitVec.eq_of_toNat_eq
    simp only [BitVec.extractLsb'_toNat, Nat.shiftRight_eq_div_pow, e]
    omega
  have hl : p.column.extractLsb' 0 4 = p.columnLow := by
    apply BitVec.eq_of_toNat_eq
    simp only [BitVec.extractLsb'_toNat, Nat.shiftRight_eq_div_pow, e]
    omega
  simp only [Panel.setColumn, hh, hl]

/-- A run of data bytes stored from the cell the pointers name (R57). -/
def Panel.storeRun (ds : List Byte) (p : Panel) : Panel :=
  { p with ram := p.ram.writeRun (ramAddress p.page p.column) ds }.setColumn (BitVec.ofNat 8 (p.column.toNat + ds.length))

/-- Data bytes that fit on the page are stored one after the other and move the column pointer past them (R57). -/
theorem Panel.dataBytes_fit (c : Config) (w : Nat) (hw : w < 256) (ds : List Byte) (p : Panel)
    (h : p.column.toNat + ds.length ≤ w) :
    ds.foldl (Panel.receive c w) (p.atPhase .data) = (p.storeRun ds).atPhase .data := by
  induction ds generalizing p with
  | nil => simp [Panel.storeRun, Memory.writeRun, Panel.setColumn_self]
  | cons b ds ih =>
    have hlt : p.column.toNat < w := by simp at h; omega
    let q : Panel := { p with ram := p.ram.write (ramAddress p.page p.column) b }.setColumn (p.column + 1)
    have hq : q.column.toNat = p.column.toNat + 1 := by
      simp [q, BitVec.toNat_add]; omega
    have e : (p.atPhase .data).receive c w b = q.atPhase .data := by
      rw [Panel.receive_data]
      simp only [Panel.dataByte, Panel.atPhase_column, hlt, if_true]
      rfl
    have hle : q.column.toNat + ds.length ≤ w := by
      rw [hq]; simp only [List.length_cons] at h; omega
    rw [List.foldl_cons, e, ih q hle]
    have hp : q.page = p.page := rfl
    have hr : ramAddress q.page q.column = ramAddress p.page p.column + 1 := by
      simp only [ramAddress, hq, hp]; omega
    simp only [Panel.storeRun, hr, hq, List.length_cons, Memory.writeRun]
    rw [show p.column.toNat + 1 + ds.length = p.column.toNat + (ds.length + 1) by omega]
    rfl

/-- A data burst that fits on the page (R57, R79). -/
theorem Panel.deliver_data {c : Config} (hc : c.Valid) (w : Nat) (hw : w < 256) (ds : List Byte) (p : Panel)
    (h : p.column.toNat + ds.length ≤ w) :
    p.deliver c w (c.ctrlData :: ds) = (p.storeRun ds).atPhase .control := by
  simp only [Panel.deliver, List.foldl_cons, Panel.receive_ctrlData hc, Panel.dataBytes_fit c w hw ds p h,
    Panel.atPhase_atPhase]

/-- Where a stored run can be read. -/
theorem Panel.storeRun_read (ds : List Byte) (p : Panel) (x : Nat) :
    (p.storeRun ds).ram.read x =
      if p.page.toNat * 256 + p.column.toNat ≤ x ∧ x < p.page.toNat * 256 + p.column.toNat + ds.length then
        ds[x - (p.page.toNat * 256 + p.column.toNat)]? else p.ram.read x := by
  simp [Panel.storeRun, Memory.read_writeRun, ramAddress]

end Sys2Proof.Machine
end

