-- ==== Sys2Proof/Laws/Writes.lean ====
section
/-! SUPPORT. What the shared procedures write and what they leave alone: for each, one lemma that gives its bursts
(`Sent`) and one that gives its registers (`core`). Composed by `Sent.trans`. -/

namespace Sys2Proof.Machine

/-! ## Registers -/

theorem State.core_chip_eq {s t : State} (h : t.core = s.core) : t.chip = s.chip := by
  have := congrArg (fun x : State => x.chip) h; simpa using this

theorem State.core_address_eq {s t : State} (h : t.core = s.core) : t.address = s.address := by
  have := congrArg (fun x : State => x.address) h; simpa using this

theorem State.core_connected_eq {s t : State} (h : t.core = s.core) : t.connected = s.connected := by
  have := congrArg (fun x : State => x.connected) h; simpa using this

theorem State.core_line_eq {s t : State} (h : t.core = s.core) : t.line = s.line := by
  have := congrArg (fun x : State => x.line) h; simpa using this

theorem State.core_column_eq {s t : State} (h : t.core = s.core) : t.column = s.column := by
  have := congrArg (fun x : State => x.column) h; simpa using this

theorem State.core_lineOffset_eq {s t : State} (h : t.core = s.core) : t.lineOffset = s.lineOffset := by
  have := congrArg (fun x : State => x.lineOffset) h; simpa using this

theorem State.core_columnOffset_eq {s t : State} (h : t.core = s.core) : t.columnOffset = s.columnOffset := by
  have := congrArg (fun x : State => x.columnOffset) h; simpa using this

theorem State.core_printMode_eq {s t : State} (h : t.core = s.core) : t.printMode = s.printMode := by
  have := congrArg (fun x : State => x.printMode) h; simpa using this

theorem State.core_inverseFont_eq {s t : State} (h : t.core = s.core) : t.inverseFont = s.inverseFont := by
  have := congrArg (fun x : State => x.inverseFont) h; simpa using this

theorem State.core_status_eq {s t : State} (h : t.core = s.core) : t.status = s.status := by
  have := congrArg (fun x : State => x.status) h; simpa using this

theorem State.core_cfg_eq {s t : State} (h : t.core = s.core) : t.cfg = s.cfg := by
  have := congrArg (fun x : State => x.cfg) h; simpa using this

theorem State.core_inputs_eq {s t : State} (h : t.core = s.core) : t.inputs = s.inputs := by
  have := congrArg (fun x : State => x.inputs) h; simpa using this

/-- Two states with the same `core` agree in every register, the parameters and the pending events. -/
theorem State.core_fields {s t : State} (h : t.core = s.core) :
    t.chip = s.chip ∧ t.address = s.address ∧ t.connected = s.connected ∧ t.line = s.line ∧ t.column = s.column ∧
    t.lineOffset = s.lineOffset ∧ t.columnOffset = s.columnOffset ∧ t.printMode = s.printMode ∧
    t.inverseFont = s.inverseFont ∧ t.status = s.status ∧ t.cfg = s.cfg ∧ t.inputs = s.inputs :=
  ⟨core_chip_eq h, core_address_eq h, core_connected_eq h, core_line_eq h, core_column_eq h, core_lineOffset_eq h,
    core_columnOffset_eq h, core_printMode_eq h, core_inverseFont_eq h, core_status_eq h, core_cfg_eq h, core_inputs_eq h⟩

/-- Two states that agree in all those have the same `core`. -/
theorem State.core_of_fields {s t : State}
    (h : t.chip = s.chip ∧ t.address = s.address ∧ t.connected = s.connected ∧ t.line = s.line ∧ t.column = s.column ∧
      t.lineOffset = s.lineOffset ∧ t.columnOffset = s.columnOffset ∧ t.printMode = s.printMode ∧
      t.inverseFont = s.inverseFont ∧ t.status = s.status ∧ t.cfg = s.cfg ∧ t.inputs = s.inputs) : t.core = s.core := by
  simp [State.core, h]

/-- Writing `line` in two states with the same `core`. -/
theorem State.core_lineAt {s t : State} (h : t.core = s.core) (l : BitVec 3) : (t.lineAt l).core = (s.lineAt l).core := by
  have := State.core_fields h; apply State.core_of_fields; simp [this]

/-- Writing `column` in two states with the same `core`. -/
theorem State.core_columnAt {s t : State} (h : t.core = s.core) (c : BitVec 5) :
    (t.columnAt c).core = (s.columnAt c).core := by
  have := State.core_fields h; apply State.core_of_fields; simp [this]

/-- Writing `lineOffset` in two states with the same `core`. -/
theorem State.core_windowAt {s t : State} (h : t.core = s.core) (o : BitVec 3) :
    (t.windowAt o).core = (s.windowAt o).core := by
  have := State.core_fields h; apply State.core_of_fields; simp [this]

/-- A burst changes no register. -/
@[simp] theorem State.emit_core (bs : List Byte) (s : State) : (s.emit bs).core = s.core := by
  unfold State.emit; split <;> rfl

/-- A transport write changes no register. -/
@[simp] theorem State.txWrite_core (a : Byte) (bs : List Byte) (s : State) : (s.txWrite a bs).core = s.core := rfl

@[simp] theorem State.emitCmdBurst_core (b : CmdBurst) (s : State) : (s.emitCmdBurst b).core = s.core := State.emit_core _ _

@[simp] theorem State.emitDataBurst_core (ds : List Byte) (s : State) : (s.emitDataBurst ds).core = s.core :=
  State.emit_core _ _

@[simp] theorem State.position_core (l : BitVec 3) (c : BitVec 4) (s : State) : (s.position l c).core = s.core :=
  State.emit_core _ _

@[simp] theorem State.renderGlyph_core (code : Byte) (s : State) : (s.renderGlyph code).core = s.core := State.emit_core _ _

theorem State.setCursorBody_core (l : BitVec 3) (c : BitVec 4) (s : State) :
    (s.setCursorBody l c).core = ((s.lineAt l).columnAt (c.zeroExtend 5)).core := State.position_core _ _ _

theorem State.setLineOffset_core (o : BitVec 3) (s : State) : (s.setLineOffset o).core = (s.windowAt o).core :=
  State.emitCmdBurst_core _ _

theorem State.scrollOne_core (s : State) : s.scrollOne.core = (s.windowAt (s.lineOffset + 1)).core :=
  State.setLineOffset_core _ _

@[simp] theorem State.sweep_core (n : Nat) (s : State) : (s.sweep n).core = s.core := by
  induction n generalizing s with
  | zero => rfl
  | succ n ih => simp [State.sweep, ih]

theorem State.clearLineBody_core (row : BitVec 3) (s : State) :
    (s.clearLineBody row).core = ((s.lineAt row).columnAt 0).core := by
  simp only [State.clearLineBody, State.position_core]
  exact State.core_columnAt (State.core_lineAt (by simp) _) _

/-! ## Writes -/

/-- The answer to the next write but one. -/
theorem State.answerAt_succ {s t : State} {e : TxWrite} (hx : t.tx = s.tx ++ [e]) (ha : t.answers = s.answers.tail) (k : Nat) :
    t.answerAt k = s.answerAt (k + 1) := by
  simp [State.answerAt, hx, ha, Nat.add_comm, Nat.add_left_comm]

/-- Answers after `n` writes. -/
theorem State.answerAt_add {s t : State} {es : List TxWrite} (hx : t.tx = s.tx ++ es)
    (ha : t.answers = s.answers.drop es.length) (k : Nat) : t.answerAt k = s.answerAt (es.length + k) := by
  simp [State.answerAt, hx, ha, Nat.add_assoc]

@[simp] theorem State.burstEvents_length (s : State) (bs : List (List Byte)) : (s.burstEvents bs).length = bs.length := by
  simp [State.burstEvents]

/-- The events of a list of bursts, cut in two. -/
theorem State.burstEvents_append {s t : State} {a b : List (List Byte)} (h : Sent s t a) (had : t.address = s.address)
    (hc : t.cfg = s.cfg) : s.burstEvents (a ++ b) = s.burstEvents a ++ t.burstEvents b := by
  have hk : ∀ k, t.answerAt k = s.answerAt (a.length + k) := fun k => by
    have := State.answerAt_add (es := s.burstEvents a) h.tx_eq (by simpa using h.answers_eq) k
    simpa using this
  simp [State.burstEvents, List.mapIdx_append, had, hc, hk, Nat.add_comm]

/-- Nothing written. -/
theorem Sent.refl (s : State) : Sent s s [] := ⟨by simp [State.burstEvents], by simp, by simp [State.burstEvents]⟩

/-- One run of writes after another. -/
theorem Sent.trans {s t u : State} {a b : List (List Byte)} (h : Sent s t a) (h' : Sent t u b)
    (had : t.address = s.address) (hc : t.cfg = s.cfg) : Sent s u (a ++ b) := by
  have e := State.burstEvents_append (b := b) h had hc
  refine ⟨?_, ?_, ?_⟩
  · rw [h'.tx_eq, h.tx_eq, e, List.append_assoc]
  · simp [h'.answers_eq, h.answers_eq]
  · rw [h'.txerr_eq, h.txerr_eq, e, List.any_append, Bool.or_assoc]

/-- One run of writes after another, where the registers in between are known. -/
theorem Sent.trans' {s t u r : State} {a b : List (List Byte)} (h : Sent s t a) (h' : Sent t u b)
    (hr : t.core = r.core) (had : r.address = s.address) (hc : r.cfg = s.cfg) : Sent s u (a ++ b) :=
  h.trans h' ((State.core_address_eq hr).trans had) ((State.core_cfg_eq hr).trans hc)

/-- A register written first, which no write depends on. -/
theorem Sent.of_regs {s r t : State} {bs : List (List Byte)} (h : Sent r t bs) (hx : r.tx = s.tx) (ha : r.answers = s.answers)
    (he : r.txerr = s.txerr) (had : r.address = s.address) (hc : r.cfg = s.cfg) : Sent s t bs := by
  have e : r.burstEvents bs = s.burstEvents bs := by simp [State.burstEvents, State.answerAt, hx, ha, had, hc]
  exact ⟨by rw [h.tx_eq, hx, e], by rw [h.answers_eq, ha], by rw [h.txerr_eq, he, e]⟩

/-- A register written last. -/
theorem Sent.to_regs {s r t : State} {bs : List (List Byte)} (h : Sent s r bs) (hx : t.tx = r.tx) (ha : t.answers = r.answers)
    (he : t.txerr = r.txerr) : Sent s t bs :=
  ⟨by rw [hx, h.tx_eq], by rw [ha, h.answers_eq], by rw [he, h.txerr_eq]⟩

/-- A burst writes itself (R78, R79). -/
theorem State.emit_sent (bs : List Byte) (s : State) : Sent s (s.emit bs) [bs] := by
  refine ⟨?_, ?_, ?_⟩
  · simp [State.emit_tx, State.burstEvents, State.nextAnswer]
  · simp
  · simp [State.emit_txerr, State.burstEvents, State.nextAnswer]

/-! ## The procedures' bursts -/

/-- An argument of `k` bits as a byte. -/
theorem byte_of_zeroExtend {k : Nat} (x : BitVec k) : x.zeroExtend 8 = BitVec.ofNat 8 x.toNat := by
  apply BitVec.eq_of_toNat_eq; simp

/-- `px` as a number (R134). -/
theorem pixelColumn_toNat (c : BitVec 4) (o : BitVec 2) : (pixelColumn c o).toNat = c.toNat * 8 + o.toNat := by
  have := c.isLt; have := o.isLt
  simp [pixelColumn]; omega

theorem extract_low (x : BitVec 8) : (x.extractLsb' 0 4).zeroExtend 8 = BitVec.ofNat 8 (x.toNat % 16) := by
  apply BitVec.eq_of_toNat_eq
  simp [BitVec.extractLsb'_toNat]

theorem extract_high (x : BitVec 8) : (x.extractLsb' 4 4).zeroExtend 8 = BitVec.ofNat 8 (x.toNat / 16) := by
  have := x.isLt
  apply BitVec.eq_of_toNat_eq
  simp [BitVec.extractLsb'_toNat, Nat.shiftRight_eq_div_pow]
  omega

/-- The framed positioning burst is the six bytes of R131. -/
theorem frame_posOps (c : Config) (o l : BitVec 3) (px : BitVec 8) :
    frameCmd c (posOps c o l px) = wirePosition c o.toNat l.toNat px.toNat := by
  simp only [frameCmd, posOps, wirePosition, opcodeByte, physicalPage, extract_low, extract_high]
  simp only [byte_of_zeroExtend]
  simp [BitVec.toNat_add]

theorem State.position_sent (l : BitVec 3) (c : BitVec 4) (s : State) :
    Sent s (s.position l c) [wirePosition s.cfg s.lineOffset.toNat l.toNat (c.toNat * 8 + s.columnOffset.toNat)] := by
  have h := State.emit_sent (frameCmd s.cfg (posOps s.cfg s.lineOffset l (pixelColumn c s.columnOffset))) s
  have e := frame_posOps s.cfg s.lineOffset l (pixelColumn c s.columnOffset)
  rw [pixelColumn_toNat] at e
  rw [← e]
  exact h

theorem State.setCursorBody_sent (l : BitVec 3) (c : BitVec 4) (s : State) :
    Sent s (s.setCursorBody l c)
      [wirePosition s.cfg s.lineOffset.toNat l.toNat (c.toNat * 8 + s.columnOffset.toNat)] :=
  (State.position_sent l c ((s.lineAt l).columnAt (c.zeroExtend 5))).of_regs rfl rfl rfl rfl rfl

theorem frame_startLine (c : Config) (o : BitVec 3) : frameCmd c (startLineBurst c o) = wireStartLine c o.toNat := by
  have := o.isLt
  have h : (startLineValue o).toNat = o.toNat * 8 := by simp [startLineValue, rowHeight]; omega
  simp only [frameCmd, startLineBurst, wireStartLine, opcodeByte, byte_of_zeroExtend, h]
  rfl

theorem State.setLineOffset_sent (o : BitVec 3) (s : State) :
    Sent s (s.setLineOffset o) [wireStartLine s.cfg o.toNat] := by
  have h := State.emit_sent (frameCmd s.cfg (startLineBurst s.cfg o)) (s.windowAt o)
  rw [← frame_startLine]
  exact Sent.of_regs (r := s.windowAt o) h rfl rfl rfl rfl rfl

theorem State.sweep_sent (n : Nat) (s : State) :
    Sent s (s.sweep n) (List.replicate n (s.cfg.ctrlData :: List.replicate (sweepBytes s.chip) 0)) := by
  induction n generalizing s with
  | zero => exact Sent.refl s
  | succ n ih =>
    have h1 := State.emit_sent (frameData s.cfg (List.replicate (sweepBytes s.chip) 0)) s
    have h2 := ih (s.emitDataBurst (List.replicate (sweepBytes s.chip) 0))
    have hc := State.emitDataBurst_core (List.replicate (sweepBytes s.chip) 0) s
    rw [State.core_cfg_eq hc, State.core_chip_eq hc] at h2
    exact h1.trans h2 (State.core_address_eq hc) (State.core_cfg_eq hc)

theorem wireSweep_eq (c : Config) (chip : Chip) :
    wireSweep c chip = List.replicate (sweepBursts chip) (c.ctrlData :: List.replicate (sweepBytes chip) 0) := by
  cases chip <;> rfl

theorem sweepStart_toNat (s : State) : (sweepStart s.cfg s.columnOffset).toNat = wireSweepStart s := by
  have := s.columnOffset.isLt
  cases h : s.cfg.clearSweepStart <;> simp [sweepStart, wireSweepStart, h]
  omega

theorem State.clearLineBody_sent (row : BitVec 3) (s : State) :
    Sent s (s.clearLineBody row) (wireClearLine s row.toNat) := by
  have h1 := State.emit_sent (frameCmd s.cfg (posOps s.cfg s.lineOffset row (sweepStart s.cfg s.columnOffset))) s
  have c1 := State.core_fields (State.emit_core (frameCmd s.cfg (posOps s.cfg s.lineOffset row
    (sweepStart s.cfg s.columnOffset))) s)
  simp only [State.clearLineBody, State.emitCmdBurst]
  generalize s.emit (frameCmd s.cfg (posOps s.cfg s.lineOffset row (sweepStart s.cfg s.columnOffset))) = s1 at *
  have h2 := State.sweep_sent (sweepBursts s1.chip) s1
  have c2 := State.core_fields (State.sweep_core (sweepBursts s1.chip) s1)
  generalize s1.sweep (sweepBursts s1.chip) = s2 at *
  have h3 := State.position_sent row 0 ((s2.lineAt row).columnAt 0)
  have h := (h1.trans h2 c1.2.1 (by simp [c1])).trans (h3.of_regs (s := s2) rfl rfl rfl rfl rfl)
    (by simp [c1, c2]) (by simp [c1, c2])
  convert h using 1
  simp [wireClearLine, wireSweep_eq, frame_posOps, sweepStart_toNat, c1, c2]

/-- Clearing several rows: the bursts of each. -/
theorem State.clearRows_sent (rows : List (BitVec 3)) (s : State) :
    Sent s (s.clearRows rows) (rows.flatMap fun r => wireClearLine s r.toNat) := by
  induction rows generalizing s with
  | nil => exact Sent.refl s
  | cons r rows ih =>
    have c := State.clearLineBody_core r s
    have e : ∀ n, wireClearLine (s.clearLineBody r) n = wireClearLine s n := fun n => by
      have h := State.core_fields c
      simp [wireClearLine, wireSweepStart, h]
    have h2 := ih (s.clearLineBody r)
    simp only [e] at h2
    exact (State.clearLineBody_sent r s).trans' h2 c rfl rfl

/-- Clearing several rows: the registers. -/
theorem State.clearRows_core (r : BitVec 3) (rows : List (BitVec 3)) (s : State) :
    (s.clearRows (r :: rows)).core = ((s.lineAt ((r :: rows).getLast (by simp))).columnAt 0).core := by
  induction rows generalizing r s with
  | nil => exact State.clearLineBody_core r s
  | cons r' rows ih =>
    have h := State.core_fields (State.clearLineBody_core r s)
    have e := State.core_fields (ih r' (s.clearLineBody r))
    apply State.core_of_fields
    rw [State.clearRows]
    simp only [State.lineAt_chip, State.columnAt_chip] at *
    simp_all

/-- The registers after the eight rows are cleared. -/
theorem State.clearAllRows_core (s : State) :
    (s.clearRows [0, 1, 2, 3, 4, 5, 6, 7]).core = ((s.lineAt 7).columnAt 0).core := State.clearRows_core _ _ _

theorem State.clearBody_core (s : State) : s.clearBody.core = (((s.lineAt 0).columnAt 0).windowAt 0).core := by
  have h1 := State.core_fields (State.clearAllRows_core s)
  have h2 := State.core_fields (State.setLineOffset_core 0 (s.clearRows [0, 1, 2, 3, 4, 5, 6, 7]))
  have h3 := State.core_fields (State.setCursorBody_core 0 0 ((s.clearRows [0, 1, 2, 3, 4, 5, 6, 7]).setLineOffset 0))
  apply State.core_of_fields
  simp only [State.clearBody]
  simp_all

theorem State.clearBody_sent (s : State) : Sent s s.clearBody (wireClear s) := by
  have c1 := State.core_fields (State.clearAllRows_core s)
  have h1 := State.clearRows_sent [0, 1, 2, 3, 4, 5, 6, 7] s
  simp only [State.clearBody]
  generalize s.clearRows [0, 1, 2, 3, 4, 5, 6, 7] = s1 at *
  have c2 := State.core_fields (State.setLineOffset_core 0 s1)
  have h2 := State.setLineOffset_sent 0 s1
  generalize s1.setLineOffset 0 = s2 at *
  have h3 := State.setCursorBody_sent 0 0 s2
  have h := (h1.trans h2 (by simp [c1]) (by simp [c1])).trans h3 (by simp [c1, c2]) (by simp [c1, c2])
  convert h using 1
  simp [wireClear, c1, c2, List.range, List.range.loop]

/-- A glyph is one data burst (R106). -/
theorem State.renderGlyph_sent (code : Byte) (s : State) : Sent s (s.renderGlyph code) [wireGlyph s code] := by
  have h := State.emit_sent (frameData s.cfg (serialize s.inverseFont (glyphOf s.cfg code))) s
  have e : frameData s.cfg (serialize s.inverseFont (glyphOf s.cfg code)) = wireGlyph s code := by
    cases hf : s.inverseFont <;> simp [frameData, serialize, wireGlyph, hf, glyphToList, ← BitVec.xor_allOnes]
  rw [← e]
  exact h

/-! ## The line advance (R101 to R103) -/

/-- The next line of the grid, wrapping home (R24). -/
theorem line_succ_toNat (l : BitVec 3) : (l + 1).toNat = if l.toNat = 7 then 0 else l.toNat + 1 := by
  have := l.isLt
  simp only [BitVec.toNat_add]
  split <;> simp <;> omega

/-- A line is 7 exactly when its number is. -/
theorem line_eq_seven (l : BitVec 3) : l = 7#3 ↔ l.toNat = 7 := by
  constructor
  · rintro rfl; rfl
  · intro h; exact BitVec.eq_of_toNat_eq h

/-- What a line advance leaves in `line` and `lineOffset` (R102). -/
def State.advanced (s : State) (forced : Bool) : State :=
  (s.lineAt (BitVec.ofNat 3 (lineAfter s.printMode forced s.line.toNat))).windowAt
    (BitVec.ofNat 3 (lineOffsetAfter s.printMode s.line.toNat s.lineOffset.toNat))

theorem ofNat_toNat_three (l : BitVec 3) : BitVec.ofNat 3 l.toNat = l := by
  apply BitVec.eq_of_toNat_eq; simp

theorem line_succ_eq (l : BitVec 3) : l + 1#3 = BitVec.ofNat 3 (if l.toNat = 7 then 0 else l.toNat + 1) := by
  apply BitVec.eq_of_toNat_eq
  have h := line_succ_toNat l
  have := l.isLt
  rw [show l + 1#3 = l + 1 from rfl, h]
  split <;> simp; omega

theorem window_succ_eq (l : BitVec 3) : l + 1#3 = BitVec.ofNat 3 ((l.toNat + 1) % 8) := by
  apply BitVec.eq_of_toNat_eq; simp [BitVec.toNat_add]

theorem State.advanceLine_core (forced : Bool) (s : State) : (s.advanceLine forced).core = (s.advanced forced).core := by
  apply State.core_of_fields
  have w := window_succ_eq s.lineOffset
  have n := line_succ_eq s.line
  cases hm : s.printMode with
  | scrollLine =>
    by_cases h7 : s.line = 7#3
    · have c := State.core_fields (State.scrollOne_core s)
      have h7' := (line_eq_seven s.line).1 h7
      simp [State.advanceLine, State.advanced, hm, h7, c, lineAfter, lineOffsetAfter, w]
    · have h7' : ¬ s.line.toNat = 7 := fun h => h7 ((line_eq_seven s.line).2 h)
      simp [h7'] at n
      simp [State.advanceLine, State.advanced, hm, lineAfter, lineOffsetAfter, h7', n, h7]
  | overwriteNextLine => simp [State.advanceLine, State.advanced, hm, lineAfter, lineOffsetAfter, n]
  | overwriteSameLine => cases forced <;> simp [State.advanceLine, State.advanced, hm, lineAfter, lineOffsetAfter, n]

/-- The writes of the policy table: a start-line burst in the scroll case and nothing else (R101, R135). -/
theorem State.advanceLine_sent (forced : Bool) (s : State) :
    Sent s (s.advanceLine forced)
      (if s.printMode = .scrollLine ∧ s.line.toNat = 7 then
        [wireStartLine s.cfg (lineOffsetAfter s.printMode s.line.toNat s.lineOffset.toNat)] else []) := by
  cases hm : s.printMode with
  | scrollLine =>
    by_cases h7 : s.line = 7#3
    · have h := State.setLineOffset_sent (s.lineOffset + 1) s
      have h7' := (line_eq_seven s.line).1 h7
      have e : (s.lineOffset + 1).toNat = (s.lineOffset.toNat + 1) % 8 := by simp [BitVec.toNat_add]
      simp only [lineOffsetAfter, State.advanceLine, hm, h7, State.scrollOne]
      rw [e] at h
      simpa using h
    · have h7' : ¬ s.line.toNat = 7 := fun h => h7 ((line_eq_seven s.line).2 h)
      simpa [h7', State.advanceLine, hm, h7] using (Sent.refl s).to_regs (t := s.lineAt (s.line + 1)) rfl rfl rfl
  | overwriteNextLine =>
    simp only [State.advanceLine, hm]
    exact (Sent.refl s).to_regs rfl rfl rfl
  | overwriteSameLine =>
    cases forced
    · simpa [State.advanceLine, hm] using Sent.refl s
    · simpa [State.advanceLine, hm] using (Sent.refl s).to_regs (t := s.lineAt (s.line + 1)) rfl rfl rfl

/-- What a line advance leaves in the registers (R102). -/
theorem State.nextLine_core (forced : Bool) (s : State) :
    (s.nextLine forced).core = ((s.advanced forced).columnAt 0).core := by
  have c1 := State.core_fields (State.advanceLine_core forced s)
  simp only [State.nextLine]
  generalize s.advanceLine forced = s1 at *
  have c2 := State.core_fields (State.position_core s1.line 0 (s1.columnAt 0))
  generalize (s1.columnAt 0).position s1.line 0 = s2 at *
  apply State.core_of_fields
  cases hm : s.printMode with
  | scrollLine =>
    have c3 := State.core_fields (State.clearLineBody_core s2.line s2)
    simp_all [State.advanced]
  | overwriteNextLine => simp_all [State.advanced]
  | overwriteSameLine => simp_all [State.advanced]

theorem lineAfter_lt (mode : PrintMode) (forced : Bool) (l : BitVec 3) : lineAfter mode forced l.toNat < 8 := by
  have := l.isLt
  unfold lineAfter; split <;> (repeat' split) <;> omega

theorem lineOffsetAfter_lt (mode : PrintMode) (l : Nat) (o : BitVec 3) : lineOffsetAfter mode l o.toNat < 8 := by
  have := o.isLt
  unfold lineOffsetAfter; split <;> (repeat' split) <;> omega

/-- The writes of one line advance, in order (R103). -/
theorem State.nextLine_sent (forced : Bool) (s : State) :
    Sent s (s.nextLine forced)
      (wireNextLine s (lineAfter s.printMode forced s.line.toNat)
        (lineOffsetAfter s.printMode s.line.toNat s.lineOffset.toNat)) := by
  have c1 := State.core_fields (State.advanceLine_core forced s)
  have h1 := State.advanceLine_sent forced s
  simp only [State.nextLine]
  generalize s.advanceLine forced = s1 at *
  have h2 := (State.position_sent s1.line 0 (s1.columnAt 0)).of_regs (s := s1) rfl rfl rfl rfl rfl
  have c2 := State.core_fields (State.position_core s1.line 0 (s1.columnAt 0))
  generalize (s1.columnAt 0).position s1.line 0 = s2 at *
  have h := h1.trans h2 (by simp [c1, State.advanced]) (by simp [c1, State.advanced])
  have hl := lineAfter_lt s.printMode forced s.line
  have ho := lineOffsetAfter_lt s.printMode s.line.toNat s.lineOffset
  have e1 : s1.line.toNat = lineAfter s.printMode forced s.line.toNat := by
    simp [c1, State.advanced]; omega
  have e2 : s1.lineOffset.toNat = lineOffsetAfter s.printMode s.line.toNat s.lineOffset.toNat := by
    simp [c1, State.advanced]; omega
  have hmm : s2.printMode = s.printMode := by simp [c1, c2, State.advanced]
  have x1 := Nat.mod_eq_of_lt hl
  have x2 := Nat.mod_eq_of_lt ho
  simp only [hmm]
  cases hm : s.printMode with
  | scrollLine =>
    have h3 := State.clearLineBody_sent s2.line s2
    have h' := h.trans h3 (by simp [c1, c2, State.advanced]) (by simp [c1, c2, State.advanced])
    convert h' using 1
    simp only [hm] at x1 x2
    simp [wireNextLine, wireClearLine, wireSweepStart, hm, c1, c2, State.advanced, x1, x2]
  | overwriteNextLine =>
    convert h using 1
    simp only [hm] at x1 x2
    simp [wireNextLine, hm, c1, State.advanced, x1, x2]
  | overwriteSameLine =>
    convert h using 1
    simp only [hm] at x1 x2
    simp [wireNextLine, hm, c1, State.advanced, x1, x2]

end Sys2Proof.Machine
end

