-- ==== Sys2Proof/Laws/Delivery.lean ====
section
/-! SUPPORT. What the controller has received after each shared procedure: exactly the writes that the procedure added to the
record, one after the other (`Fed`). With the bursts of `Laws/Writes.lean` and no failed write this gives the controller after every
operation but INIT. -/

namespace Sys2Proof.Machine

/-- From `s` to `t` the controller received the writes added to the record and nothing else; the parameters and the chip are
the same. -/
structure Fed (s t : State) : Prop where
  cfg_eq : t.cfg = s.cfg
  chip_eq : t.chip = s.chip
  fed : ∃ evs, t.tx = s.tx ++ evs ∧ t.panel = evs.foldl (Panel.feed s.cfg (chipWidth s.chip)) s.panel

/-- Nothing written. -/
theorem Fed.of_regs {s t : State} (hc : t.cfg = s.cfg) (hk : t.chip = s.chip) (hx : t.tx = s.tx) (hp : t.panel = s.panel) :
    Fed s t := ⟨hc, hk, [], by simp [hx], by simp [hp]⟩

theorem Fed.refl (s : State) : Fed s s := Fed.of_regs rfl rfl rfl rfl

theorem Fed.trans {s t u : State} (h : Fed s t) (h' : Fed t u) : Fed s u := by
  obtain ⟨hc, hk, evs, hx, hp⟩ := h
  obtain ⟨hc', hk', evs', hx', hp'⟩ := h'
  refine ⟨hc'.trans hc, hk'.trans hk, evs ++ evs', by simp [hx', hx], ?_⟩
  rw [hp', hp, List.foldl_append, hc, hk]

theorem State.lineAt_fed (l : BitVec 3) (s : State) : Fed s (s.lineAt l) := Fed.of_regs rfl rfl rfl rfl
theorem State.columnAt_fed (x : BitVec 5) (s : State) : Fed s (s.columnAt x) := Fed.of_regs rfl rfl rfl rfl
theorem State.windowAt_fed (o : BitVec 3) (s : State) : Fed s (s.windowAt o) := Fed.of_regs rfl rfl rfl rfl

/-- A burst is received, or lost in part, once. -/
theorem State.emit_fed (bs : List Byte) (s : State) : Fed s (s.emit bs) :=
  ⟨by simp, by simp, [_], State.emit_tx bs s, by simp [Panel.feed, State.panelAfter]⟩

/-- A command burst is never empty. -/
theorem frameCmd_ne_nil (c : Config) (b : CmdBurst) : frameCmd c b ≠ [] := by simp [frameCmd]

theorem State.emitCmdBurst_fed (b : CmdBurst) (s : State) : Fed s (s.emitCmdBurst b) :=
  State.emit_fed _ s

theorem State.emitDataBurst_fed (ds : List Byte) (s : State) : Fed s (s.emitDataBurst ds) :=
  State.emit_fed _ s

theorem State.position_fed (l : BitVec 3) (c : BitVec 4) (s : State) : Fed s (s.position l c) := State.emitCmdBurst_fed _ s

theorem State.renderGlyph_fed (code : Byte) (s : State) : Fed s (s.renderGlyph code) := State.emitDataBurst_fed _ s

theorem State.setCursorBody_fed (l : BitVec 3) (c : BitVec 4) (s : State) : Fed s (s.setCursorBody l c) :=
  ((State.lineAt_fed _ _).trans (State.columnAt_fed _ _)).trans (State.position_fed _ _ _)

theorem State.setLineOffset_fed (o : BitVec 3) (s : State) : Fed s (s.setLineOffset o) :=
  (State.windowAt_fed o s).trans (State.emitCmdBurst_fed _ _)

theorem State.sweep_fed (n : Nat) (s : State) : Fed s (s.sweep n) := by
  induction n generalizing s with
  | zero => exact Fed.refl s
  | succ n ih => exact (State.emitDataBurst_fed _ s).trans (ih _)

theorem State.clearLineBody_fed (row : BitVec 3) (s : State) : Fed s (s.clearLineBody row) :=
  ((((State.emitCmdBurst_fed _ s).trans (State.sweep_fed _ _)).trans (State.lineAt_fed _ _)).trans
    (State.columnAt_fed _ _)).trans (State.position_fed _ _ _)

theorem State.clearRows_fed (rows : List (BitVec 3)) (s : State) : Fed s (s.clearRows rows) := by
  induction rows generalizing s with
  | nil => exact Fed.refl s
  | cons r rows ih => exact (State.clearLineBody_fed r s).trans (ih _)

theorem State.clearBody_fed (s : State) : Fed s s.clearBody :=
  ((State.clearRows_fed _ s).trans (State.setLineOffset_fed 0 _)).trans (State.setCursorBody_fed 0 0 _)

theorem State.advanceLine_fed (forced : Bool) (s : State) : Fed s (s.advanceLine forced) := by
  unfold State.advanceLine
  split
  · split
    · exact State.setLineOffset_fed _ s
    · exact State.lineAt_fed _ s
  · exact State.lineAt_fed _ s
  · split
    · exact State.lineAt_fed _ s
    · exact Fed.refl s

theorem State.nextLine_fed (forced : Bool) (s : State) : Fed s (s.nextLine forced) := by
  have h : Fed s (((s.advanceLine forced).columnAt 0).position (s.advanceLine forced).line 0) :=
    ((State.advanceLine_fed forced s).trans (State.columnAt_fed _ _)).trans (State.position_fed _ _ _)
  simp only [State.nextLine]
  split
  · exact h.trans (State.clearLineBody_fed _ _)
  · exact h
  · exact h

theorem State.printGlyph_fed (code : Byte) (s : State) : Fed s (s.printGlyph code) := by
  have h : Fed s (if maxTextColumns ≤ s.column.toNat then s.nextLine false else s) := by
    split
    · exact State.nextLine_fed false s
    · exact Fed.refl s
  exact (h.trans (State.renderGlyph_fed code _)).trans (State.columnAt_fed _ _)

theorem State.emitFlip_fed (flipped : Bool) (s : State) : Fed s (s.emitFlip flipped) := by
  simp only [State.emitFlip]
  split
  · exact State.emitCmdBurst_fed _ s
  · exact (State.emitCmdBurst_fed _ s).trans (State.emitCmdBurst_fed _ _)

/-- Writes and their reception together: the controller after the bursts of a run in which no burst failed. -/
theorem Sent.panel_eq {s t : State} {bs : List (List Byte)} (h : Sent s t bs) (f : Fed s t) (he : t.txerr = false) :
    t.panel = bs.foldl (fun p b => p.deliver s.cfg (chipWidth s.chip) b) s.panel := by
  obtain ⟨-, -, evs, hx, hp⟩ := f
  have hev : evs = s.burstEvents bs := List.append_cancel_left (hx.symm.trans h.tx_eq)
  have hok : ∀ e ∈ s.burstEvents bs, e.ok = true := by
    have := h.txerr_eq
    rw [he] at this
    simpa using (Bool.or_eq_false_iff.1 this.symm).2
  have hmap : (s.burstEvents bs).map TxWrite.bytes = bs := by
    apply List.ext_getElem <;> simp [State.burstEvents]
  subst hev
  rw [hp]
  have key : ∀ (es : List TxWrite) (p : Panel), (∀ e ∈ es, e.ok = true) →
      es.foldl (Panel.feed s.cfg (chipWidth s.chip)) p =
        (es.map TxWrite.bytes).foldl (fun p b => p.deliver s.cfg (chipWidth s.chip) b) p := by
    intro es
    induction es with
    | nil => intro p _; rfl
    | cons e es ih =>
      intro p hk
      simp only [List.foldl_cons, List.map_cons, Panel.feed, Panel.arrive, hk e (List.mem_cons_self ..), if_true]
      exact ih _ fun e he => hk e (List.mem_cons_of_mem _ he)
  rw [key _ _ hok, hmap]

/-- A failed burst is never forgotten (R31). -/
theorem Sent.txerr_mono {s t : State} {bs : List (List Byte)} (h : Sent s t bs) (he : t.txerr = false) : s.txerr = false := by
  have := h.txerr_eq
  rw [he] at this
  exact (Bool.or_eq_false_iff.1 this.symm).1

end Sys2Proof.Machine
end

