-- ==== Sys2Proof/Laws/Controller.lean ====
section
/-! SUPPORT. What each of the block's bursts does to the controller once received (R57, R83 to R89, R207). -/

namespace Sys2Proof.Machine

/-! ## Opcode bytes -/

/-- Bits that a mask leaves open are zero in a base. -/
theorem getLsbD_of_and_eq_zero {b m : Byte} (h : b &&& m = 0) (i : Nat) (hi : m.getLsbD i = true) : b.getLsbD i = false := by
  have := congrArg (fun x => BitVec.getLsbD x i) h
  simpa [hi] using this

/-- A base that is zero under a mask is zero under every part of it. -/
theorem and_eq_zero_of_part {b m k : Byte} (h : b &&& m = 0) (hk : m &&& k = k) : b &&& k = 0 := by
  rw [← hk, ← BitVec.and_assoc, h]; simp

/-- The argument of an opcode byte reads back from the bits the base leaves zero (R82). -/
theorem extract_or {k : Nat} (b x : Byte) (h : ∀ i, i < k → b.getLsbD i = false) :
    (b ||| x).extractLsb' 0 k = x.extractLsb' 0 k := by
  apply BitVec.eq_of_getLsbD_eq
  intro i hi
  simp [hi, h i hi]

/-- The low bits of a small number. -/
theorem extract_ofNat (k n : Nat) (hk : k ≤ 8) : (BitVec.ofNat 8 n).extractLsb' 0 k = BitVec.ofNat k n := by
  apply BitVec.eq_of_getLsbD_eq
  intro i hi
  have : i < 8 := by omega
  simp only [BitVec.getLsbD_extractLsb', BitVec.getLsbD_ofNat, hi, this, decide_true, Bool.true_and, Nat.zero_add]

/-- A number below 2 to the `k` has no bit from `k` on. -/
theorem ofNat_and_eq_zero {n : Nat} {m : Byte} (k : Nat) (hn : n < 2 ^ k) (hm : ∀ i, i < 8 → m.getLsbD i = true → k ≤ i) :
    BitVec.ofNat 8 n &&& m = 0 := by
  apply BitVec.eq_of_getLsbD_eq
  intro i hi
  by_cases h : m.getLsbD i = true
  · have hki := hm i hi h
    have : n < 2 ^ i := Nat.lt_of_lt_of_le hn (Nat.pow_le_pow_right (by omega) hki)
    simp only [BitVec.getLsbD_and, BitVec.getLsbD_ofNat, Nat.testBit_lt_two_pow this]
    simp
  · simp [h]

theorem decode_pageAddress {c : Config} (hv : c.Valid) (hd : c.OpcodesDisjoint) (n : Nat) (hn : n < 8) :
    decodeOpcode c (c.opPageAddress ||| BitVec.ofNat 8 n) = .ok (.pageAddress (BitVec.ofNat 3 n)) := by
  have h := (decodeOpcode_of_class hd (c.opPageAddress ||| BitVec.ofNat 8 n)).1
    (and_or_of_disjoint hv.2.1.1 (ofNat_and_eq_zero 3 hn (by decide)))
  rw [h, extract_or _ _ fun i hi => getLsbD_of_and_eq_zero hv.2.1.1 i (by revert i; decide), extract_ofNat _ _ (by decide)]

theorem decode_columnLow {c : Config} (hv : c.Valid) (hd : c.OpcodesDisjoint) (n : Nat) (hn : n < 16) :
    decodeOpcode c (c.opColLow ||| BitVec.ofNat 8 n) = .ok (.columnAddressLow (BitVec.ofNat 4 n)) := by
  have h := (decodeOpcode_of_class hd (c.opColLow ||| BitVec.ofNat 8 n)).2.1
    (and_or_of_disjoint hv.2.1.2.1 (ofNat_and_eq_zero 4 hn (by decide)))
  rw [h, extract_or _ _ fun i hi => getLsbD_of_and_eq_zero hv.2.1.2.1 i (by revert i; decide),
    extract_ofNat _ _ (by decide)]

theorem decode_columnHigh {c : Config} (hv : c.Valid) (hd : c.OpcodesDisjoint) (n : Nat) (hn : n < 8) :
    decodeOpcode c (c.opColHigh ||| BitVec.ofNat 8 n) = .ok (.columnAddressHigh (BitVec.ofNat 4 n)) := by
  have hb : c.opColHigh &&& ~~~0xF8#8 = 0 := and_eq_zero_of_part hv.2.1.2.2.1 (by decide)
  have h := (decodeOpcode_of_class hd (c.opColHigh ||| BitVec.ofNat 8 n)).2.2.1
    (and_or_of_disjoint hb (ofNat_and_eq_zero 3 hn (by decide)))
  rw [h, extract_or _ _ fun i hi => getLsbD_of_and_eq_zero hv.2.1.2.2.1 i (by revert i; decide),
    extract_ofNat _ _ (by decide)]

theorem decode_startLine {c : Config} (hv : c.Valid) (hd : c.OpcodesDisjoint) (n : Nat) (hn : n < 8) :
    decodeOpcode c (c.opStartLine ||| BitVec.ofNat 8 (n * 8)) = .ok (.startLine (BitVec.ofNat 6 (n * 8))) := by
  have hb : c.opStartLine &&& ~~~0xC7#8 = 0 := and_eq_zero_of_part hv.2.1.2.2.2 (by decide)
  have hz : BitVec.ofNat 8 (n * 8) &&& 0xC7#8 = 0 := by revert n; decide
  have h := (decodeOpcode_of_class hd (c.opStartLine ||| BitVec.ofNat 8 (n * 8))).2.2.2.1 (and_or_of_disjoint hb hz)
  rw [h, extract_or _ _ fun i hi => getLsbD_of_and_eq_zero hv.2.1.2.2.2 i (by revert i; decide),
    extract_ofNat _ _ (by decide)]

/-! ## Bursts -/

/-- A one-opcode burst (R78, R93). -/
theorem Panel.deliver_one {c : Config} (hv : c.Valid) (w : Nat) (p : Panel) {o : Byte} {i : Instr}
    (h : decodeOpcode c o = .ok i) : p.deliver c w [c.ctrlLast, o] = (wireEffect i p).atPhase .control := by
  simpa using Panel.deliver_frameCmd hv w { front := [], last := o } [i] (by simp [CmdBurst.opcodes, h]) p

/-- A two-opcode burst. -/
theorem Panel.deliver_two {c : Config} (hv : c.Valid) (w : Nat) (p : Panel) {o o' : Byte} {i i' : Instr}
    (h : decodeOpcode c o = .ok i) (h' : decodeOpcode c o' = .ok i') :
    p.deliver c w [c.ctrlMore, o, c.ctrlLast, o'] = (wireEffect i' (wireEffect i p)).atPhase .control := by
  simpa using Panel.deliver_frameCmd hv w { front := [o], last := o' } [i, i'] (by simp [CmdBurst.opcodes, h, h']) p

/-- The controller with its pointers at (page, pixel column) and the receiver at the start of a burst. -/
def Panel.pointAt (page column : Nat) (p : Panel) : Panel :=
  ({ p with page := BitVec.ofNat 3 page }.setColumn (BitVec.ofNat 8 column)).atPhase .control

/-- A delivered positioning burst sets the pointers and nothing else (R131, R207). -/
theorem Panel.deliver_position {c : Config} (hv : c.Valid) (hd : c.OpcodesDisjoint) (w : Nat) (p : Panel) (o l px : Nat)
    (hpx : px < 128) : p.deliver c w (wirePosition c o l px) = p.pointAt ((l + o) % 8) px := by
  have h := Panel.deliver_frameCmd hv w
    { front := [c.opPageAddress ||| BitVec.ofNat 8 ((l + o) % 8), c.opColLow ||| BitVec.ofNat 8 (px % 16)],
      last := c.opColHigh ||| BitVec.ofNat 8 (px / 16) }
    [.pageAddress (BitVec.ofNat 3 ((l + o) % 8)), .columnAddressLow (BitVec.ofNat 4 (px % 16)),
      .columnAddressHigh (BitVec.ofNat 4 (px / 16))]
    (by simp [CmdBurst.opcodes, decode_pageAddress hv hd _ (Nat.mod_lt _ (by decide : 0 < 8)),
          decode_columnLow hv hd _ (Nat.mod_lt _ (by decide : 0 < 16)), decode_columnHigh hv hd _ (by omega : px / 16 < 8)]) p
  have e1 : (BitVec.ofNat 8 px).extractLsb' 4 4 = BitVec.ofNat 4 (px / 16) := by
    apply BitVec.eq_of_toNat_eq
    simp [BitVec.extractLsb'_toNat, Nat.shiftRight_eq_div_pow]
    omega
  have e2 : (BitVec.ofNat 8 px).extractLsb' 0 4 = BitVec.ofNat 4 (px % 16) := by
    apply BitVec.eq_of_toNat_eq
    simp [BitVec.extractLsb'_toNat]
  simp only [Panel.pointAt, Panel.setColumn, e1, e2]
  exact h

/-- A delivered start-line burst writes the start-line register and nothing else (R86). -/
theorem Panel.deliver_startLine {c : Config} (hv : c.Valid) (hd : c.OpcodesDisjoint) (w : Nat) (p : Panel) (o : Nat)
    (ho : o < 8) :
    p.deliver c w (wireStartLine c o) = { p with startLine := BitVec.ofNat 6 (o * 8) }.atPhase .control :=
  Panel.deliver_one hv w p (decode_startLine hv hd o ho)

@[simp] theorem Panel.pointAt_page (a x : Nat) (p : Panel) : (p.pointAt a x).page = BitVec.ofNat 3 a := rfl
@[simp] theorem Panel.pointAt_column (a x : Nat) (p : Panel) : (p.pointAt a x).column = BitVec.ofNat 8 x := by
  simp [Panel.pointAt, Panel.atPhase, Panel.column, Panel.setColumn]
  exact (Panel.setColumn_column (BitVec.ofNat 8 x) p)
@[simp] theorem Panel.pointAt_startLine (a x : Nat) (p : Panel) : (p.pointAt a x).startLine = p.startLine := rfl
@[simp] theorem Panel.pointAt_inverse (a x : Nat) (p : Panel) : (p.pointAt a x).inverse = p.inverse := rfl
@[simp] theorem Panel.pointAt_segFlipped (a x : Nat) (p : Panel) : (p.pointAt a x).segFlipped = p.segFlipped := rfl
@[simp] theorem Panel.pointAt_scanFlipped (a x : Nat) (p : Panel) : (p.pointAt a x).scanFlipped = p.scanFlipped := rfl
@[simp] theorem Panel.pointAt_ram (a x : Nat) (p : Panel) : (p.pointAt a x).ram = p.ram := rfl
@[simp] theorem Panel.pointAt_phase (a x : Nat) (p : Panel) : (p.pointAt a x).phase = .control := rfl

/-- Consecutive stores, cut in two. -/
theorem Memory.writeRun_append (a b : List Byte) (m : Memory) (x : Nat) :
    m.writeRun x (a ++ b) = (m.writeRun x a).writeRun (x + a.length) b := by
  induction a generalizing m x with
  | nil => rfl
  | cons y a ih => simp [Memory.writeRun, ih, Nat.add_assoc, Nat.add_comm 1]

/-- One run of stores after another on the same page. -/
theorem Panel.storeRun_storeRun (a b : List Byte) (p : Panel) (h : p.column.toNat + a.length < 256) :
    (p.storeRun a).storeRun b = p.storeRun (a ++ b) := by
  have hx : (BitVec.ofNat 8 (p.column.toNat + a.length)).toNat = p.column.toNat + a.length := by simp; omega
  have hc : (p.storeRun a).column.toNat = p.column.toNat + a.length := by simp [Panel.storeRun, hx]
  have hr : (p.storeRun a).ram = p.ram.writeRun (ramAddress p.page p.column) a := rfl
  have hp : (p.storeRun a).page = p.page := rfl
  have hm : ramAddress p.page (p.storeRun a).column = ramAddress p.page p.column + a.length := by
    simp only [ramAddress, hc]; omega
  rw [Panel.storeRun, hr, hp, hc, hm, ← Memory.writeRun_append, Nat.add_assoc, ← List.length_append]
  rfl

/-- What a run of data bursts leaves: the bytes of all of them in consecutive cells from the pointers on (R57, R160). -/
theorem Panel.deliver_zeros {c : Config} (hv : c.Valid) (w : Nat) (hw : w < 256) (n k : Nat) (p : Panel)
    (h : p.column.toNat + n * k ≤ w) :
    (List.replicate n (c.ctrlData :: List.replicate k 0)).foldl (fun p b => p.deliver c w b) (p.atPhase .control) =
      (p.storeRun (List.replicate (n * k) 0)).atPhase .control := by
  induction n generalizing p with
  | zero =>
    simp [Panel.storeRun, Memory.writeRun, Panel.setColumn_self]
  | succ n ih =>
    have hs : (n + 1) * k = n * k + k := Nat.succ_mul n k
    have hk : p.column.toNat + k ≤ w := by omega
    have e : (p.atPhase .control).deliver c w (c.ctrlData :: List.replicate k 0) =
        (p.storeRun (List.replicate k 0)).atPhase .control := by
      rw [show (p.atPhase .control).deliver c w (c.ctrlData :: List.replicate k 0) =
        p.deliver c w (c.ctrlData :: List.replicate k 0) from rfl]
      exact Panel.deliver_data hv w hw _ p (by simpa using hk)
    rw [List.replicate_succ, List.foldl_cons, e]
    have hc : (p.storeRun (List.replicate k 0)).column.toNat = p.column.toNat + k := by
      simp [Panel.storeRun]; omega
    rw [ih _ (by rw [hc]; omega), Panel.storeRun_storeRun _ _ _ (by simp; omega), ← List.replicate_add, hs,
      Nat.add_comm k]

/-! ## Clearing -/

/-- A page of the display zeroed from pixel column 0 over a width. -/
def Panel.clearPage (width page : Nat) (p : Panel) : Panel :=
  { p with ram := p.ram.writeRun (page * 256) (List.replicate width 0) }

@[simp] theorem Panel.clearPage_page (w a : Nat) (p : Panel) : (p.clearPage w a).page = p.page := rfl
@[simp] theorem Panel.clearPage_column (w a : Nat) (p : Panel) : (p.clearPage w a).column = p.column := rfl
@[simp] theorem Panel.clearPage_startLine (w a : Nat) (p : Panel) : (p.clearPage w a).startLine = p.startLine := rfl
@[simp] theorem Panel.clearPage_inverse (w a : Nat) (p : Panel) : (p.clearPage w a).inverse = p.inverse := rfl
@[simp] theorem Panel.clearPage_segFlipped (w a : Nat) (p : Panel) : (p.clearPage w a).segFlipped = p.segFlipped := rfl
@[simp] theorem Panel.clearPage_scanFlipped (w a : Nat) (p : Panel) : (p.clearPage w a).scanFlipped = p.scanFlipped := rfl

/-- Where a cleared page can be read. -/
theorem Panel.clearPage_read (w a x : Nat) (p : Panel) :
    (p.clearPage w a).ram.read x = if a * 256 ≤ x ∧ x < a * 256 + w then some 0 else p.ram.read x := by
  simp only [Panel.clearPage, Memory.read_writeRun, List.length_replicate]
  split
  · rename_i h
    have : x - a * 256 < w := by omega
    simp [this]
  · rfl

theorem chipWidth_lt (k : Chip) : chipWidth k < 256 := by cases k <;> decide

/-- The sweep is as long as the page is wide (R7). -/
theorem sweep_width (k : Chip) : sweepBursts k * sweepBytes k = chipWidth k := by cases k <;> rfl

/-- The bursts of a line clear that starts at pixel column 0, received: the page is zeroed and the pointers stand at its home
cell (R160). -/
theorem Panel.deliver_clearLine {s : State} (hv : s.cfg.Valid) (hd : s.cfg.OpcodesDisjoint)
    (hz : s.cfg.clearSweepStart = .zero) (row : Nat) (p : Panel) :
    (wireClearLine s row).foldl (fun p b => p.deliver s.cfg (chipWidth s.chip) b) p =
      (p.clearPage (chipWidth s.chip) ((row + s.lineOffset.toNat) % 8)).pointAt ((row + s.lineOffset.toNat) % 8)
        s.columnOffset.toNat := by
  have hs : wireSweepStart s = 0 := by simp [wireSweepStart, hz]
  have ho := s.columnOffset.isLt
  have hm : (row + s.lineOffset.toNat) % 8 < 8 := Nat.mod_lt _ (by decide)
  rw [wireClearLine, hs, wireSweep_eq]
  simp only [List.cons_append, List.foldl_cons, List.foldl_append, List.foldl_nil]
  rw [Panel.deliver_position hv hd _ p _ _ 0 (by omega)]
  have h := Panel.deliver_zeros hv (chipWidth s.chip) (chipWidth_lt _) (sweepBursts s.chip) (sweepBytes s.chip)
    (p.pointAt ((row + s.lineOffset.toNat) % 8) 0) (by simp [sweep_width])
  rw [show (p.pointAt ((row + s.lineOffset.toNat) % 8) 0).atPhase .control = p.pointAt ((row + s.lineOffset.toNat) % 8) 0
    from rfl] at h
  rw [h, Panel.deliver_position hv hd _ _ _ _ _ (by omega), sweep_width]
  simp [Panel.pointAt, Panel.clearPage, Panel.storeRun, Panel.setColumn, Panel.atPhase, ramAddress, Nat.mod_eq_of_lt hm]
  simp [Panel.column_toNat]

/-- What clearing several rows leaves of the controller (R163). -/
theorem Panel.deliver_clearRows {s : State} (hv : s.cfg.Valid) (hd : s.cfg.OpcodesDisjoint)
    (hz : s.cfg.clearSweepStart = .zero) (rows : List Nat) (p q : Panel)
    (h : q = (rows.flatMap (wireClearLine s)).foldl (fun p b => p.deliver s.cfg (chipWidth s.chip) b) p) :
    q.startLine = p.startLine ∧ q.inverse = p.inverse ∧ q.segFlipped = p.segFlipped ∧ q.scanFlipped = p.scanFlipped ∧
    ∀ x, q.ram.read x =
      if ∃ r ∈ rows, (r + s.lineOffset.toNat) % 8 * 256 ≤ x ∧ x < (r + s.lineOffset.toNat) % 8 * 256 + chipWidth s.chip then some 0
      else p.ram.read x := by
  induction rows generalizing p with
  | nil => subst h; simp
  | cons r rows ih =>
    rw [List.flatMap_cons, List.foldl_append, Panel.deliver_clearLine hv hd hz] at h
    obtain ⟨h1, h2, h3, h4, h5⟩ := ih _ h
    refine ⟨by simpa using h1, by simpa using h2, by simpa using h3, by simpa using h4, fun x => ?_⟩
    rw [h5, Panel.pointAt_ram, Panel.clearPage_read]
    simp only [List.mem_cons, exists_eq_or_imp]
    by_cases hr : (r + s.lineOffset.toNat) % 8 * 256 ≤ x ∧ x < (r + s.lineOffset.toNat) % 8 * 256 + chipWidth s.chip
    · simp [hr]
    · simp [hr]

/-- What clearing the display leaves of the controller (R163, R203): every byte of every page zero, start line 0, the pointers
at the home cell, and the panel modes as they were. -/
theorem Panel.deliver_clear {s : State} (hv : s.cfg.Valid) (hd : s.cfg.OpcodesDisjoint)
    (hz : s.cfg.clearSweepStart = .zero) (p q : Panel)
    (h : q = (wireClear s).foldl (fun p b => p.deliver s.cfg (chipWidth s.chip) b) p) :
    q.page = 0 ∧ q.column = BitVec.ofNat 8 s.columnOffset.toNat ∧ q.startLine = 0 ∧
    q.inverse = p.inverse ∧ q.segFlipped = p.segFlipped ∧ q.scanFlipped = p.scanFlipped ∧
    ∀ page column, page < 8 → column < chipWidth s.chip → q.ram.read (page * 256 + column) = some 0 := by
  have ho := s.columnOffset.isLt
  simp only [wireClear, List.foldl_append, List.foldl_cons, List.foldl_nil] at h
  obtain ⟨h1, h2, h3, h4, h5⟩ := Panel.deliver_clearRows hv hd hz (List.range 8) p _ rfl
  generalize ((List.range 8).flatMap (wireClearLine s)).foldl _ p = r at *
  rw [Panel.deliver_startLine hv hd _ _ 0 (by decide), Panel.deliver_position hv hd _ _ _ _ _ (by omega)] at h
  subst h
  refine ⟨rfl, by simp, rfl, h2, h3, h4, fun page column hp hc => ?_⟩
  have hw := chipWidth_lt s.chip
  have hl := s.lineOffset.isLt
  show r.ram.read _ = _
  rw [h5, if_pos]
  refine ⟨(page + 8 - s.lineOffset.toNat) % 8, by simp; omega, ?_⟩
  have : ((page + 8 - s.lineOffset.toNat) % 8 + s.lineOffset.toNat) % 8 = page := by omega
  rw [this]
  omega

/-- A glyph's burst received: its bytes in the cells from the pointers on, the column pointer past them (R58, R207). -/
theorem Panel.deliver_glyph {s : State} (hv : s.cfg.Valid) (code : Byte) (p : Panel)
    (h : p.column.toNat + 8 ≤ chipWidth s.chip) :
    p.deliver s.cfg (chipWidth s.chip) (wireGlyph s code) =
      (p.storeRun ((glyphToList (glyphOf s.cfg code)).map fun g => if s.inverseFont then g ^^^ 0xFF else g)).atPhase .control :=
  Panel.deliver_data hv _ (chipWidth_lt _) _ p (by simpa [glyphToList] using h)

end Sys2Proof.Machine
end

