-- ==== Sys2Proof/Laws/Facade.lean ====
section
/-! SUPPORT. What INIT does, case by case (R151 to R154): the power-on bursts and the orientation they leave,
the part after a successful probe, and the five ways an INIT goes. Then the orientation bursts of FLIP (R167). -/

namespace Sys2Proof.Machine

/-! ## The power-on bursts (R153) -/

@[simp] theorem State.emitPowerOnBurst_core (b : PowerOnBurst) (s : State) : (s.emitPowerOnBurst b).core = s.core :=
  State.emitCmdBurst_core b.toCmd s

theorem State.emitPowerOnBurst_sent (b : PowerOnBurst) (s : State) :
    Sent s (s.emitPowerOnBurst b) [frameCmd s.cfg b.toCmd] :=
  (State.emit_sent (frameCmd s.cfg b.toCmd) s).to_regs rfl rfl rfl

@[simp] theorem State.emitPowerOn_core (bs : List PowerOnBurst) (s : State) : (s.emitPowerOn bs).core = s.core := by
  induction bs generalizing s with
  | nil => rfl
  | cons b bs ih => exact (ih _).trans (State.emitPowerOnBurst_core b s)

theorem State.emitPowerOn_sent (bs : List PowerOnBurst) (s : State) :
    Sent s (s.emitPowerOn bs) (bs.map fun b => frameCmd s.cfg b.toCmd) := by
  induction bs generalizing s with
  | nil => exact Sent.refl s
  | cons b bs ih =>
    have c := State.emitPowerOnBurst_core b s
    have h' := ih (s.emitPowerOnBurst b)
    rw [State.core_cfg_eq c] at h'
    exact (State.emitPowerOnBurst_sent b s).trans h' (State.core_address_eq c) (State.core_cfg_eq c)

/-! ## The orientation a power-on table leaves (R153, R168) -/

/-- A power-on byte sets the orientation the table names and leaves it otherwise. -/
theorem Panel.powerOnByte_orientation {c : Config} (hd : c.OpcodesDisjoint) {x : PowerOnByte}
    (hx : x.isArgument = false → x.byte ≠ c.opSegFlipped ∧ x.byte ≠ c.opScanFlipped) (p : Panel) :
    ((p.powerOnByte c x).segFlipped = if x.isArgument = false ∧ x.byte = c.opSegUnflipped then false else p.segFlipped) ∧
    ((p.powerOnByte c x).scanFlipped = if x.isArgument = false ∧ x.byte = c.opScanUnflipped then false else p.scanFlipped) := by
  have hk := decodeOpcode_of_class hd x.byte
  cases ha : x.isArgument with
  | true => simp [Panel.powerOnByte, ha]
  | false =>
    obtain ⟨h1, h2⟩ := hx ha
    have hs : x.byte = c.opSegUnflipped → decodeOpcode c x.byte = .ok .segmentRemapUnflipped := hk.2.2.2.2.2.2.1
    have hc : x.byte = c.opScanUnflipped → decodeOpcode c x.byte = .ok .scanDirectionUnflipped := hk.2.2.2.2.2.2.2.2.1
    cases hi : decodeOpcode c x.byte with
    | error e =>
      rw [hi] at hs hc
      have ns : x.byte ≠ c.opSegUnflipped := fun e => nomatch hs e
      have nc : x.byte ≠ c.opScanUnflipped := fun e => nomatch hc e
      simp [Panel.powerOnByte, ha, hi, ns, nc]
    | ok i =>
      have hu : (x.byte = c.opSegUnflipped ↔ i = .segmentRemapUnflipped) ∧ (x.byte = c.opScanUnflipped ↔ i = .scanDirectionUnflipped) ∧
          i ≠ .segmentRemapFlipped ∧ i ≠ .scanDirectionFlipped := by
        have hs' : x.byte = c.opSegUnflipped → i = .segmentRemapUnflipped := fun e => by simpa [hi] using hs e
        have hc' : x.byte = c.opScanUnflipped → i = .scanDirectionUnflipped := fun e => by simpa [hi] using hc e
        unfold decodeOpcode at hi
        repeat' split at hi
        all_goals cases hi
        all_goals simp_all
      simp only [Panel.powerOnByte, ha, hi, hu.1, hu.2.1]
      obtain ⟨-, -, n1, n2⟩ := hu
      cases i <;> simp_all [wireEffect]

/-- The bytes of a burst, or any run of them. -/
theorem Panel.powerOnBytes_orientation {c : Config} (hd : c.OpcodesDisjoint) (xs : List PowerOnByte)
    (hx : ∀ x ∈ xs, x.isArgument = false → x.byte ≠ c.opSegFlipped ∧ x.byte ≠ c.opScanFlipped) (p : Panel) :
    ((∃ x ∈ xs, x.isArgument = false ∧ x.byte = c.opSegUnflipped) → (xs.foldl (Panel.powerOnByte c) p).segFlipped = false) ∧
    ((¬ ∃ x ∈ xs, x.isArgument = false ∧ x.byte = c.opSegUnflipped) →
      (xs.foldl (Panel.powerOnByte c) p).segFlipped = p.segFlipped) ∧
    ((∃ x ∈ xs, x.isArgument = false ∧ x.byte = c.opScanUnflipped) → (xs.foldl (Panel.powerOnByte c) p).scanFlipped = false) ∧
    ((¬ ∃ x ∈ xs, x.isArgument = false ∧ x.byte = c.opScanUnflipped) →
      (xs.foldl (Panel.powerOnByte c) p).scanFlipped = p.scanFlipped) := by
  induction xs generalizing p with
  | nil => simp
  | cons x xs ih =>
    obtain ⟨h1, h2⟩ := Panel.powerOnByte_orientation hd (hx x (List.mem_cons_self ..)) p
    obtain ⟨i1, i2, i3, i4⟩ := ih (fun y hy => hx y (List.mem_cons_of_mem _ hy)) (p.powerOnByte c x)
    simp only [List.foldl_cons, List.mem_cons, exists_eq_or_imp]
    refine ⟨fun h => ?_, fun h => ?_, fun h => ?_, fun h => ?_⟩
    · by_cases k : ∃ x ∈ xs, x.isArgument = false ∧ x.byte = c.opSegUnflipped
      · exact i1 k
      · rw [i2 k, h1, if_pos (h.resolve_right k)]
    · rw [i2 fun k => h (.inr k), h1, if_neg fun k => h (.inl k)]
    · by_cases k : ∃ x ∈ xs, x.isArgument = false ∧ x.byte = c.opScanUnflipped
      · exact i3 k
      · rw [i4 k, h2, if_pos (h.resolve_right k)]
    · rw [i4 fun k => h (.inr k), h2, if_neg fun k => h (.inl k)]

/-- The controller after the power-on bursts, however they were answered. -/
theorem State.emitPowerOn_fed (bs : List PowerOnBurst) (s : State) :
    (s.emitPowerOn bs).panel =
      (bs.zip (s.burstEvents (bs.map fun b => frameCmd s.cfg b.toCmd))).foldl (Panel.feedPowerOn s.cfg) s.panel := by
  induction bs generalizing s with
  | nil => rfl
  | cons b bs ih =>
    have hk := State.emitPowerOnBurst_core b s
    have e := State.burstEvents_append (b := bs.map fun b => frameCmd s.cfg b.toCmd) (State.emitPowerOnBurst_sent b s)
      (State.core_address_eq hk) (State.core_cfg_eq hk)
    rw [State.emitPowerOn, ih, State.core_cfg_eq hk, List.map_cons]
    rw [List.singleton_append] at e
    rw [e]
    rfl

/-- The controller after power-on bursts all of which were answered `ok`. -/
theorem State.emitPowerOn_panel (bs : List PowerOnBurst) (s : State) (h : (s.emitPowerOn bs).txerr = false) :
    (s.emitPowerOn bs).panel = bs.foldl (fun p b => p.powerOn s.cfg b) s.panel := by
  have hs := State.emitPowerOn_sent bs s
  have hok : ∀ e ∈ s.burstEvents (bs.map fun b => frameCmd s.cfg b.toCmd), e.ok = true := by
    have := hs.txerr_eq
    rw [h] at this
    simpa using (Bool.or_eq_false_iff.1 this.symm).2
  have key : ∀ (bs : List PowerOnBurst) (es : List TxWrite) (p : Panel), bs.length = es.length → (∀ e ∈ es, e.ok = true) →
      (bs.zip es).foldl (Panel.feedPowerOn s.cfg) p = bs.foldl (fun p b => p.powerOn s.cfg b) p := by
    intro bs
    induction bs with
    | nil => simp
    | cons b bs ih =>
      rintro (_ | ⟨e, es⟩) p hl hk
      · cases hl
      · have he := hk e (List.mem_cons_self ..)
        simp only [List.zip_cons_cons, List.foldl_cons, Panel.feedPowerOn, Panel.arrivePowerOn, he, if_true]
        exact ih es _ (Nat.succ.inj hl) fun x hx => hk x (List.mem_cons_of_mem _ hx)
  rw [State.emitPowerOn_fed, key _ _ _ (by simp) hok]

/-- The orientation after delivered power-on bursts: the unflipped one where the table sets it, else as it was. -/
theorem Panel.powerOn_orientation {c : Config} (hd : c.OpcodesDisjoint) (bs : List PowerOnBurst)
    (hx : ∀ b ∈ bs, ∀ x ∈ b.bytes, x.isArgument = false → x.byte ≠ c.opSegFlipped ∧ x.byte ≠ c.opScanFlipped) (p : Panel) :
    ((∃ b ∈ bs, b.hasCommand c.opSegUnflipped) → (bs.foldl (fun p b => p.powerOn c b) p).segFlipped = false) ∧
    ((¬ ∃ b ∈ bs, b.hasCommand c.opSegUnflipped) → (bs.foldl (fun p b => p.powerOn c b) p).segFlipped = p.segFlipped) ∧
    ((∃ b ∈ bs, b.hasCommand c.opScanUnflipped) → (bs.foldl (fun p b => p.powerOn c b) p).scanFlipped = false) ∧
    ((¬ ∃ b ∈ bs, b.hasCommand c.opScanUnflipped) → (bs.foldl (fun p b => p.powerOn c b) p).scanFlipped = p.scanFlipped) := by
  induction bs generalizing p with
  | nil => simp
  | cons b bs ih =>
    obtain ⟨h1, h2, h3, h4⟩ := Panel.powerOnBytes_orientation hd b.bytes (hx b (List.mem_cons_self ..)) p
    obtain ⟨i1, i2, i3, i4⟩ := ih (fun y hy => hx y (List.mem_cons_of_mem _ hy)) (p.powerOn c b)
    simp only [List.foldl_cons, List.mem_cons, exists_eq_or_imp]
    refine ⟨fun h => ?_, fun h => ?_, fun h => ?_, fun h => ?_⟩
    · by_cases k : ∃ b ∈ bs, b.hasCommand c.opSegUnflipped
      · exact i1 k
      · rw [i2 k]; exact h1 (h.resolve_right k)
    · rw [i2 fun k => h (.inr k)]; exact h2 fun k => h (.inl k)
    · by_cases k : ∃ b ∈ bs, b.hasCommand c.opScanUnflipped
      · exact i3 k
      · rw [i4 k]; exact h3 (h.resolve_right k)
    · rw [i4 fun k => h (.inr k)]; exact h4 fun k => h (.inl k)

/-- A free table held to the unflipped opcodes obeys R153. -/
theorem PowerOnBurst.unflip_ok {sf su cf cu : Byte} (h1 : su ≠ sf) (h2 : su ≠ cf) (h3 : cu ≠ sf) (h4 : cu ≠ cf)
    (b : PowerOnBurst) : ∀ x ∈ (b.unflip sf su cf cu).bytes, x.isArgument = false → x.byte ≠ sf ∧ x.byte ≠ cf := by
  have key : ∀ y : PowerOnByte, (y.unflip sf su cf cu).isArgument = false →
      (y.unflip sf su cf cu).byte ≠ sf ∧ (y.unflip sf su cf cu).byte ≠ cf := by
    intro y
    unfold PowerOnByte.unflip
    split
    · intro ha; simp_all
    · split
      · exact fun _ => ⟨h1, h2⟩
      · split
        · exact fun _ => ⟨h3, h4⟩
        · exact fun _ => ⟨‹_›, ‹_›⟩
  intro x hx
  simp only [PowerOnBurst.bytes, PowerOnBurst.unflip, List.mem_append, List.mem_map, List.mem_singleton] at hx
  obtain ⟨y, -, rfl⟩ | rfl := hx
  · exact key y
  · exact key b.last

/-- The bursts of a clear depend on these registers only. -/
theorem wireClear_congr {s t : State} (hc : t.cfg = s.cfg) (hk : t.chip = s.chip) (ho : t.lineOffset = s.lineOffset)
    (hx : t.columnOffset = s.columnOffset) : wireClear t = wireClear s := by
  have e : wireClearLine t = wireClearLine s := by
    funext row; simp [wireClearLine, wireSweepStart, hc, hk, ho, hx]
  simp [wireClear, e, hc, hx]

/-! ## After a successful probe -/

/-- The registers INIT writes before its first burst (R151). -/
def State.initRegs (chip : Chip) (sel : Byte) (s : State) : State :=
  { s with
    chip := chip
    address := sel
    columnOffset := defaultColOffset s.cfg chip
    connected := true
    status := .ok }

theorem State.initConnected_core (chip : Chip) (sel : Byte) (s : State) :
    (s.initConnected chip sel).core = ((((s.initRegs chip sel).lineAt 0).columnAt 0).windowAt 0).core := by
  have c1 := State.core_fields (State.emitPowerOn_core (powerOnBursts s.cfg chip) (s.initRegs chip sel))
  have c2 := State.core_fields
    (State.setCursorBody_core 0 0 ((s.initRegs chip sel).emitPowerOn (powerOnBursts s.cfg chip)))
  have c3 := State.core_fields (State.clearBody_core
    (((s.initRegs chip sel).emitPowerOn (powerOnBursts s.cfg chip)).setCursorBody 0 0))
  apply State.core_of_fields
  show _ ∧ _
  rw [show s.initConnected chip sel =
    (((s.initRegs chip sel).emitPowerOn (powerOnBursts s.cfg chip)).setCursorBody 0 0).clearBody from rfl]
  simp_all

theorem State.initConnected_sent (chip : Chip) (sel : Byte) (s : State) :
    Sent (s.initRegs chip sel) (s.initConnected chip sel)
      (((powerOnBursts s.cfg chip).map fun b => frameCmd s.cfg b.toCmd) ++
        wirePosition s.cfg s.lineOffset.toNat 0 (s.initRegs chip sel).columnOffset.toNat ::
          wireClear (s.initRegs chip sel)) := by
  have h1 := State.emitPowerOn_sent (powerOnBursts s.cfg chip) (s.initRegs chip sel)
  have c1 := State.core_fields (State.emitPowerOn_core (powerOnBursts s.cfg chip) (s.initRegs chip sel))
  rw [show s.initConnected chip sel =
    (((s.initRegs chip sel).emitPowerOn (powerOnBursts s.cfg chip)).setCursorBody 0 0).clearBody from rfl]
  generalize (s.initRegs chip sel).emitPowerOn (powerOnBursts s.cfg chip) = s1 at *
  have h2 := State.setCursorBody_sent 0 0 s1
  have c2 := State.core_fields (State.setCursorBody_core 0 0 s1)
  generalize s1.setCursorBody 0 0 = s2 at *
  have h3 := State.clearBody_sent s2
  have h := (h1.trans h2 (by simp [c1]) (by simp [c1])).trans h3 (by simp [c1, c2]) (by simp [c1, c2])
  convert h using 1
  rw [wireClear_congr (s := s2) (t := s.initRegs chip sel) (by simp [c1, c2]) (by simp [c1, c2]) (by simp [c1, c2])
    (by simp [c1, c2])]
  simp [State.initRegs, c1]

/-! ## The ways an INIT goes -/

/-- R151, R182: a request outside the set. -/
theorem State.initBody_invalid {s : State} {chip : Chip} {req : Byte} (h : addressAllowed s.cfg req = false) :
    s.initBody chip req = { s with connected := false, status := .invalidAddress } := by
  simp [State.initBody, h, State.raiseError]

/-- R151: an explicit address of the set. -/
theorem State.initBody_explicit {s : State} {chip : Chip} {req : Byte} (hr : req = s.cfg.addrA ∨ req = s.cfg.addrB)
    (hn : req ≠ s.cfg.addrAuto) :
    s.initBody chip req =
      if s.answerAt 0 then ({ s with connected := false }.probe req).initConnected chip req
      else ({ s with connected := false }.probe req).raiseError .deviceNotFound := by
  have ha : addressAllowed s.cfg req = true := by rcases hr with rfl | rfl <;> simp [addressAllowed]
  have e : ({ s with connected := false } : State).nextAnswer = s.answerAt 0 := rfl
  cases hb : s.answerAt 0 <;> simp [State.initBody, ha, probeCandidates, hn, probeFirst, e, hb]

/-- R151: AUTO, both addresses in order. -/
theorem State.initBody_auto (s : State) (chip : Chip) :
    s.initBody chip s.cfg.addrAuto =
      if s.answerAt 0 then ({ s with connected := false }.probe s.cfg.addrA).initConnected chip s.cfg.addrA
      else if s.answerAt 1 then
        (({ s with connected := false }.probe s.cfg.addrA).probe s.cfg.addrB).initConnected chip s.cfg.addrB
      else (({ s with connected := false }.probe s.cfg.addrA).probe s.cfg.addrB).raiseError .deviceNotFound := by
  have ha : addressAllowed s.cfg s.cfg.addrAuto = true := by simp [addressAllowed]
  have e0 : ({ s with connected := false } : State).nextAnswer = s.answerAt 0 := rfl
  have e1 : (({ s with connected := false } : State).probe s.cfg.addrA).nextAnswer = s.answerAt 1 := by
    have := State.answerAt_succ (s := { s with connected := false })
      (t := ({ s with connected := false } : State).probe s.cfg.addrA) rfl rfl 0
    rw [show s.answerAt 1 = ({ s with connected := false } : State).answerAt (0 + 1) from rfl, ← this]
    rfl
  cases h0 : s.answerAt 0 <;> cases h1 : s.answerAt 1 <;>
    simp [State.initBody, ha, probeCandidates, probeFirst, e0, e1, h0, h1]

/-! ## All an INIT writes, and what the controller has received -/

/-- No burst of a clear is empty. -/
theorem wireClear_ne_nil (s : State) : ∀ b ∈ wireClear s, b ≠ [] := by
  cases h : s.chip <;> simp +contextual [wireClear, wireClearLine, wireSweep, wireStartLine, wirePosition, h, or_imp]

/-- The probes write no byte and change no register. -/
theorem probeFirst_writes (as : List Byte) (s : State) : ∃ probes : List TxWrite,
    (probeFirst as s).2.core = s.core ∧ (probeFirst as s).2.tx = s.tx ++ probes ∧ (∀ e ∈ probes, e.bytes = []) ∧
    ((probeFirst as s).1.isSome → probes ≠ []) ∧
    ∀ width, (probeFirst as s).2.panel = probes.foldl (Panel.feed s.cfg width) s.panel := by
  induction as generalizing s with
  | nil => exact ⟨[], by simp [probeFirst]⟩
  | cons a as ih =>
    have hk : (s.probe a).core = s.core := State.txWrite_core _ _ _
    have hp : (s.probe a).panel = if s.nextAnswer then s.panel.atPhase .control else s.panel :=
      Panel.arrive_probe s.cfg (chipWidth s.chip) s.nextAnswer s.panel
    unfold probeFirst
    split
    · exact ⟨[_], hk, State.probe_tx a s, by simp, by simp, by simp [Panel.feed, hp]⟩
    · obtain ⟨probes, h1, h2, h3, h4, h5⟩ := ih (s.probe a)
      refine ⟨_ :: probes, h1.trans hk, by rw [h2, State.probe_tx, List.append_assoc]; rfl, by simpa using h3, by simp,
        fun width => ?_⟩
      rw [h5 width]
      simp [Panel.feed, hp]

/-- The writes after a successful probe, in the state the probes left: the whole power-on table, then bursts like any other. -/
theorem State.initConnected_writes (chip : Chip) (sel : Byte) (s : State) : ∃ powerOn others : List TxWrite,
    (s.initConnected chip sel).tx = s.tx ++ (powerOn ++ others) ∧ (s.initConnected chip sel).chip = chip ∧
    powerOn.map TxWrite.bytes = (powerOnBursts s.cfg chip).map (fun b => frameCmd s.cfg b.toCmd) ∧
    (∀ e ∈ powerOn ++ others, e.bytes ≠ []) ∧
    (s.initConnected chip sel).panel =
      others.foldl (Panel.feed s.cfg (chipWidth chip))
        (((powerOnBursts s.cfg chip).zip powerOn).foldl (Panel.feedPowerOn s.cfg) s.panel) := by
  have q := State.core_chip_eq (State.initConnected_core chip sel s)
  rw [show s.initConnected chip sel =
    (((s.initRegs chip sel).emitPowerOn (powerOnBursts s.cfg chip)).setCursorBody 0 0).clearBody from rfl] at q ⊢
  have core := State.emitPowerOn_core (powerOnBursts s.cfg chip) (s.initRegs chip sel)
  have on := State.emitPowerOn_sent (powerOnBursts s.cfg chip) (s.initRegs chip sel)
  have hp := State.emitPowerOn_fed (powerOnBursts s.cfg chip) (s.initRegs chip sel)
  have hc : _ = s.cfg := State.core_cfg_eq (s := s.initRegs chip sel) core
  have hk : _ = chip := State.core_chip_eq (s := s.initRegs chip sel) core
  generalize (s.initRegs chip sel).emitPowerOn (powerOnBursts s.cfg chip) = v at *
  have cur := State.core_fields (State.setCursorBody_core 0 0 v)
  have sent := (State.setCursorBody_sent 0 0 v).trans (State.clearBody_sent (v.setCursorBody 0 0))
    (cur.2.1.trans rfl) (cur.2.2.2.2.2.2.2.2.2.2.1.trans rfl)
  obtain ⟨-, -, others, hx, hf⟩ := (State.setCursorBody_fed 0 0 v).trans (State.clearBody_fed _)
  have ho : others = v.burstEvents _ := List.append_cancel_left (hx.symm.trans sent.tx_eq)
  have mem : ∀ (u : State) (bs : List (List Byte)), (∀ b ∈ bs, b ≠ []) → ∀ e ∈ u.burstEvents bs, e.bytes ≠ [] := by
    intro u bs h e he
    simp only [State.burstEvents, List.mem_mapIdx] at he
    obtain ⟨i, hi, rfl⟩ := he
    exact h _ (List.getElem_mem hi)
  refine ⟨(s.initRegs chip sel).burstEvents ((powerOnBursts s.cfg chip).map fun b => frameCmd s.cfg b.toCmd), others,
    by rw [hx, on.tx_eq, List.append_assoc]; rfl, q, ?_, fun e he => ?_, ?_⟩
  · apply List.ext_getElem <;> simp [State.burstEvents, State.initRegs]
  · rcases List.mem_append.1 he with he | he
    · exact mem _ _ (by simp [frameCmd_ne_nil]) e he
    · rw [ho] at he
      refine mem _ _ (fun b hb => ?_) e he
      rcases List.mem_append.1 hb with hb | hb
      · rw [List.mem_singleton.1 hb]; simp [wirePosition]
      · exact wireClear_ne_nil _ b hb
  · rw [hf, hp, hc, hk]; rfl

/-- All an INIT writes and what the controller has received at its end: its writes in order, the bytes of the power-on bursts told
apart by the table. -/
theorem State.initBody_writes (chip : Chip) (req : Byte) (s : State) : ∃ probes powerOn others : List TxWrite,
    (s.initBody chip req).tx = s.tx ++ (probes ++ (powerOn ++ others)) ∧
    InitWrites s.cfg chip probes powerOn others ∧ (powerOn ++ others ≠ [] → (s.initBody chip req).chip = chip) ∧
    (s.initBody chip req).panel =
      others.foldl (Panel.feed s.cfg (chipWidth chip))
        (((powerOnBursts s.cfg chip).zip powerOn).foldl (Panel.feedPowerOn s.cfg)
          (probes.foldl (Panel.feed s.cfg (chipWidth chip)) s.panel)) := by
  by_cases ha : addressAllowed s.cfg req = true
  · obtain ⟨probes, h1, h2, h3, h4, h5⟩ := probeFirst_writes (probeCandidates s.cfg req) { s with connected := false }
    have e : s.initBody chip req =
        match probeFirst (probeCandidates s.cfg req) { s with connected := false } with
        | (some sel, s) => s.initConnected chip sel
        | (none, s) => s.raiseError .deviceNotFound := if_pos ha
    revert e h1 h2 h4 h5
    generalize probeFirst (probeCandidates s.cfg req) { s with connected := false } = r
    obtain ⟨_ | sel, u⟩ := r <;> intro h1 h2 h4 h5 e
    · exact ⟨probes, [], [], by rw [e]; simpa [State.raiseError] using h2, ⟨h3, by simp, by simp, by simp, by simp⟩, by simp,
        by rw [e]; simpa [State.raiseError] using h5 (chipWidth chip)⟩
    · have hc : u.cfg = s.cfg := State.core_cfg_eq (s := { s with connected := false }) h1
      obtain ⟨powerOn, others, g1, g2, g3, g4, g5⟩ := State.initConnected_writes chip sel u
      rw [hc] at g3 g5
      have hl : powerOn.length = (powerOnBursts s.cfg chip).length := by simpa using congrArg List.length g3
      refine ⟨probes, powerOn, others, ?_, ⟨h3, g4, by simpa [hl] using g3, fun _ => hl, fun hn => absurd hn (h4 rfl)⟩,
        fun _ => by rw [e]; exact g2, ?_⟩
      · rw [e, g1, show u.tx = s.tx ++ probes from h2, List.append_assoc]
      · rw [e, g5, show u.panel = _ from h5 (chipWidth chip)]
  · rw [State.initBody_invalid (by simpa using ha)]
    exact ⟨[], [], [], by simp, ⟨by simp, by simp, by simp, by simp, by simp⟩, by simp, by simp⟩

/-! ## FLIP -/

theorem State.emitFlip_core (f : Bool) (s : State) : (s.emitFlip f).core = s.core := by
  simp only [State.emitFlip]; split <;> simp

theorem State.emitFlip_sent (f : Bool) (s : State) :
    Sent s (s.emitFlip f) (wireFlip s.cfg (flipOpcodes s.cfg f).1 (flipOpcodes s.cfg f).2) := by
  cases h : s.cfg.flipFraming with
  | oneBurst =>
    simp only [State.emitFlip, wireFlip, h]
    exact State.emit_sent [s.cfg.ctrlMore, _, s.cfg.ctrlLast, _] s
  | twoBursts =>
    have h1 := State.emit_sent [s.cfg.ctrlLast, (flipOpcodes s.cfg f).1] s
    have h2 := State.emit_sent [s.cfg.ctrlLast, (flipOpcodes s.cfg f).2] (s.emit [s.cfg.ctrlLast, (flipOpcodes s.cfg f).1])
    have := h1.trans h2 (by simp) (by simp)
    simpa [State.emitFlip, wireFlip, h, State.emitCmdBurst, frameCmd] using this

/-! ## Counts -/

/-- How many writes a run makes. -/
theorem Sent.tx_length {s t : State} {bs : List (List Byte)} (h : Sent s t bs) : t.tx.length = s.tx.length + bs.length := by
  rw [h.tx_eq]; simp

/-- `W_clear` (R163): 82 on SSD1306, 66 on SH1106. -/
theorem wireClear_length (s : State) : (wireClear s).length = 8 * (2 + sweepBursts s.chip) + 2 := by
  cases h : s.chip <;> simp [wireClear, wireClearLine, wireSweep, List.range, List.range.loop, h, sweepBursts]

/-- The writes of one line clear (R160). -/
theorem wireClearLine_length (s : State) (row : Nat) : (wireClearLine s row).length = 2 + sweepBursts s.chip := by
  cases h : s.chip <;> simp [wireClearLine, wireSweep, h, sweepBursts]

end Sys2Proof.Machine
end

