-- ==== Sys2Proof/Laws/Operands.lean ====
section
/-! SUPPORT. The operand forms as conditions on the operand's number (R73, R75, R105). -/

namespace Sys2Proof.Machine

theorem lineOperand_eq (b : Byte) : lineOperand b = if b.toNat < 8 then some (BitVec.ofNat 3 b.toNat) else none := by
  unfold lineOperand maxTextLines; congr

theorem columnOperand_eq (b : Byte) : columnOperand b = if b.toNat < 16 then some (BitVec.ofNat 4 b.toNat) else none := by
  unfold columnOperand maxTextColumns; congr

theorem offsetOperand_eq (b : Byte) : offsetOperand b = if b.toNat ≤ 3 then some (BitVec.ofNat 2 b.toNat) else none := by
  unfold offsetOperand colOffsetMax; congr

theorem boolOperand_eq (f : Byte) : boolOperand f = decide (f.toNat ≠ 0) := by
  simp [boolOperand, bne, BEq.beq, BitVec.toNat_eq]

/-- A byte is a literal exactly when its number is. -/
theorem byte_eq_iff (b : Byte) (k : Nat) (hk : k < 256) : b = BitVec.ofNat 8 k ↔ b.toNat = k := by
  constructor
  · rintro rfl; simp; omega
  · intro h; apply BitVec.eq_of_toNat_eq; simp; omega

theorem printModeOperand_eq (b : Byte) :
    printModeOperand b =
      if b.toNat = 0 then some .overwriteSameLine
      else if b.toNat = 1 then some .overwriteNextLine
      else if b.toNat = 2 then some .scrollLine
      else none := by
  have e0 := byte_eq_iff b 0 (by decide)
  have e1 := byte_eq_iff b 1 (by decide)
  have e2 := byte_eq_iff b 2 (by decide)
  simp only [printModeOperand, ← e0, ← e1, ← e2]
  rfl

theorem charClass_newline : charClass 0x0A = .newline := rfl

theorem charClass_printable {code : Byte} (h1 : 32 ≤ code.toNat) (h2 : code.toNat < 127) : charClass code = .printable := by
  have e := byte_eq_iff code 10 (by decide)
  have hn : ¬ code = (10 : Byte) := fun h => by have := e.1 h; omega
  unfold charClass codeLo codeHi
  rw [if_neg hn, if_pos ⟨h1, h2⟩]

theorem charClass_ignored {code : Byte} (h : code ≠ 0x0A) (h' : code.toNat < 32 ∨ 127 ≤ code.toNat) :
    charClass code = .ignored := by
  unfold charClass codeLo codeHi
  rw [if_neg h, if_neg (by omega)]

end Sys2Proof.Machine
end

