-- ==== Sys2Proof/Laws/PerInstr.lean ====
section
/-! SUPPORT. Per instruction: the encoding of a well-formed instruction under the default parameters lies in the row of
spec/opcode_table.json that stands for it. The rows' match and mask words are copied from that table. -/

namespace Sys2Proof.Laws.InRow

/-- A row of spec/opcode_table.json: its match and its mask. -/
inductive Row where
  | host (value mask : HostWord)
  | wire (value mask : Byte)
deriving DecidableEq, Repr

/-- The row of each instruction. -/
def rowOf : Instr → Row
  | .init _ _ => .host 0x010000 0xFFFE00
  | .printChar _ => .host 0x020000 0xFF00FF
  | .clear => .host 0x030000 0xFFFFFF
  | .clearLine _ => .host 0x040000 0xFF00FF
  | .clearCurrentLine => .host 0x050000 0xFFFFFF
  | .setCursor _ _ => .host 0x060000 0xFF0000
  | .home => .host 0x070000 0xFFFFFF
  | .setInverse _ => .host 0x080000 0xFF00FF
  | .flip _ => .host 0x090000 0xFF00FF
  | .setInverseFont _ => .host 0x0A0000 0xFF00FF
  | .setPrintMode _ => .host 0x0B0000 0xFF00FF
  | .setDisplayColumnOffset _ => .host 0x0C0000 0xFF00FF
  | .ctrlMore => .wire 0x80 0xFF
  | .ctrlLast => .wire 0x00 0xFF
  | .ctrlData => .wire 0x40 0xFF
  | .pageAddress _ => .wire 0xB0 0xF8
  | .columnAddressLow _ => .wire 0x00 0xF0
  | .columnAddressHigh _ => .wire 0x10 0xF8
  | .startLine _ => .wire 0x40 0xC7
  | .modeNormal => .wire 0xA6 0xFF
  | .modeInverse => .wire 0xA7 0xFF
  | .segmentRemapUnflipped => .wire 0xA1 0xFF
  | .segmentRemapFlipped => .wire 0xA0 0xFF
  | .scanDirectionUnflipped => .wire 0xC8 0xFF
  | .scanDirectionFlipped => .wire 0xC0 0xFF

/-- An encoding lies in a row: same width, and the bits the row fixes have its values. -/
def Row.holds : Row → Encoded → Prop
  | .host value mask, .host w => w &&& mask = value
  | .wire value mask, .wire b => b &&& mask = value
  | .host _ _, .wire _ => False
  | .wire _ _, .host _ => False

/-- The instruction's encoding lies in its row. -/
def Statement (i : Instr) : Prop := i.wf = true → (rowOf i).holds (encode Config.default i)

/-- A host word under a mask, byte by byte. -/
theorem hostWord_and (op a b m₂ m₁ m₀ : Byte) :
    hostWord op a b &&& hostWord m₂ m₁ m₀ = hostWord (op &&& m₂) (a &&& m₁) (b &&& m₀) := by
  unfold hostWord; rw [BitVec.and_append, BitVec.and_append]

/-- The row of an operation with one operand byte. -/
theorem oneOperand (op a : Byte) : hostWord op a 0 &&& 0xFF00FF = hostWord op 0 0 := by
  rw [show (0xFF00FF : HostWord) = hostWord 0xFF 0 0xFF from rfl, hostWord_and]
  simp [and_ff]

/-- The row of an operation with two operand bytes. -/
theorem twoOperands (op a b : Byte) : hostWord op a b &&& 0xFF0000 = hostWord op 0 0 := by
  rw [show (0xFF0000 : HostWord) = hostWord 0xFF 0 0 from rfl, hostWord_and]
  simp [and_ff]

/-- The row of INIT: the chip selector's upper seven bits are fixed. -/
theorem initOperands (op a b : Byte) : hostWord op a b &&& 0xFFFE00 = hostWord op (a &&& 0xFE) 0 := by
  rw [show (0xFFFE00 : HostWord) = hostWord 0xFF 0xFE 0 from rfl, hostWord_and]
  simp [and_ff]

theorem init (chip : Chip) (requestedAddress : Byte) : Statement (.init chip requestedAddress) := fun _ => by
  refine (initOperands 0x01 (encodeChip chip) requestedAddress).trans ?_
  cases chip <;> rfl

theorem printChar (code : Byte) : Statement (.printChar code) := fun _ => oneOperand 0x02 code

theorem clear : Statement (.clear) := fun _ => rfl

theorem clearLine (row : Byte) : Statement (.clearLine row) := fun _ => oneOperand 0x04 row

theorem clearCurrentLine : Statement (.clearCurrentLine) := fun _ => rfl

theorem setCursor (line : Byte) (column : Byte) : Statement (.setCursor line column) := fun _ => twoOperands 0x06 line column

theorem home : Statement (.home) := fun _ => rfl

theorem setInverse (flag : Byte) : Statement (.setInverse flag) := fun _ => oneOperand 0x08 flag

theorem flip (flag : Byte) : Statement (.flip flag) := fun _ => oneOperand 0x09 flag

theorem setInverseFont (flag : Byte) : Statement (.setInverseFont flag) := fun _ => oneOperand 0x0A flag

theorem setPrintMode (mode : Byte) : Statement (.setPrintMode mode) := fun _ => oneOperand 0x0B mode

theorem setDisplayColumnOffset (n : Byte) : Statement (.setDisplayColumnOffset n) := fun _ => oneOperand 0x0C n

theorem ctrlMore : Statement (.ctrlMore) := fun _ => rfl

theorem ctrlLast : Statement (.ctrlLast) := fun _ => rfl

theorem ctrlData : Statement (.ctrlData) := fun _ => rfl

theorem pageAddress (page : BitVec 3) : Statement (.pageAddress page) := by
  have h : ∀ page : BitVec 3, opcodeByte 0xB0 (page.zeroExtend 8) &&& 0xF8 = 0xB0 := by decide
  exact fun _ => h page

theorem columnAddressLow (nibble : BitVec 4) : Statement (.columnAddressLow nibble) := by
  have h : ∀ nibble : BitVec 4, opcodeByte 0x00 (nibble.zeroExtend 8) &&& 0xF0 = 0x00 := by decide
  exact fun _ => h nibble

theorem columnAddressHigh (nibble : BitVec 4) : Statement (.columnAddressHigh nibble) := by
  have h : ∀ nibble : BitVec 4, decide (nibble.toNat < 8) = true → opcodeByte 0x10 (nibble.zeroExtend 8) &&& 0xF8 = 0x10 := by decide
  exact h nibble

theorem startLine (value : BitVec 6) : Statement (.startLine value) := by
  have h : ∀ value : BitVec 6, decide (value.toNat % 8 = 0) = true → opcodeByte 0x40 (value.zeroExtend 8) &&& 0xC7 = 0x40 := by decide
  exact h value

theorem modeNormal : Statement (.modeNormal) := fun _ => rfl

theorem modeInverse : Statement (.modeInverse) := fun _ => rfl

theorem segmentRemapUnflipped : Statement (.segmentRemapUnflipped) := fun _ => rfl

theorem segmentRemapFlipped : Statement (.segmentRemapFlipped) := fun _ => rfl

theorem scanDirectionUnflipped : Statement (.scanDirectionUnflipped) := fun _ => rfl

theorem scanDirectionFlipped : Statement (.scanDirectionFlipped) := fun _ => rfl

end Sys2Proof.Laws.InRow
end

