-- ==== Sys2Proof/Tests/Slice0.lean ====
section
/-! SUPPORT. The model's own tests. Expected results are those of spec/95_test_vectors.md (the vector is named with each test), or
words written out bit by bit from spec/30_encoding.md. The witnesses at the end meet the hypotheses of the statements. -/

namespace Sys2Proof.Tests

open Sys2Proof Sys2Proof.Machine

-- One theorem at a time: side by side each kernel evaluation would hold a thread of its own.
set_option Elab.async false

/-! ## Small states -/

/-- The stand-in glyph table `TG` (95_test_vectors.md section 0). -/
def standInGlyph (n : Nat) : Glyph where
  g0 := BitVec.ofNat 8 n
  g1 := BitVec.ofNat 8 (n + 1)
  g2 := BitVec.ofNat 8 (n + 2)
  g3 := BitVec.ofNat 8 (n + 3)
  g4 := BitVec.ofNat 8 (n + 4)
  g5 := BitVec.ofNat 8 (n + 5)
  g6 := BitVec.ofNat 8 (n + 6)
  g7 := BitVec.ofNat 8 (n + 7)

/-- The stand-in power-on table (95_test_vectors.md section 0). -/
def standInPowerOn : List PowerOnBurst :=
  [⟨[], ⟨0xAE, false⟩⟩, ⟨[⟨0xA1, false⟩], ⟨0xC8, false⟩⟩, ⟨[], ⟨0xAF, false⟩⟩]

/-- The parameters of 95_test_vectors.md section 0. -/
def config : Config :=
  { Config.default with
    powerOnSH1106 := standInPowerOn
    powerOnSSD1306 := standInPowerOn
    txTimeout := 0
    glyphTable := (List.range 95).map fun k => standInGlyph (k + 32) }

/-- The reset state, the next writes answered as listed. -/
def afterReset (answers : List Bool) : State := { State.resetWith config with answers := answers }

/-- "SSD base state", the next 100 writes answered `ok`. -/
def ssd : State :=
  { afterReset (List.replicate 100 true) with chip := .ssd1306, address := 0x3C, connected := true }

/-- "SH base state" at an address, the next 100 writes answered `ok`. -/
def sh (a : Byte) : State :=
  { afterReset (List.replicate 100 true) with chip := .sh1106, address := a, connected := true, columnOffset := 2 }

/-- `s` with the cursor and the scroll window at given places. -/
def place (s : State) (line : BitVec 3) (column : BitVec 5) (lineOffset : BitVec 3) : State :=
  { s with line := line, column := column, lineOffset := lineOffset }

/-- `s` in a print mode. -/
def inMode (m : PrintMode) (s : State) : State := { s with printMode := m }

/-- One step with a host word presented. -/
def issue (w : HostWord) (s : State) : State :=
  match step { s with inputs := [.op w] } with
  | .next t => t
  | .fault _ => s
  | .refused _ => s

/-- The writes of one word, as bus address and bytes. -/
def writes (w : HostWord) (s : State) : List (Byte × List Byte) := (issue w s).tx.map fun e => (e.addr, e.bytes)

/-- Where the cursor and the scroll window are after a word. -/
def cursor (w : HostWord) (s : State) : Nat × Nat × Nat :=
  ((issue w s).line.toNat, (issue w s).column.toNat, (issue w s).lineOffset.toNat)

/-- The positioning burst with page opcode `p`, low nibble `k` and high nibble opcode `h`. -/
def pos (p k h : Byte) : List Byte := [0x80, p, 0x80, k, 0x00, h]

/-- `ROWCLR(p)` (95_test_vectors.md section 0), `p` the page opcode. -/
def rowClr (p : Byte) : List (Byte × List Byte) :=
  (0x3C, pos p 0x00 0x10) :: List.replicate 8 (0x3C, 0x40 :: List.replicate 16 0) ++ [(0x3C, pos p 0x00 0x10)]

/-- `ROWCLR_SH(p, k)` (95_test_vectors.md section 0) at address `a`. -/
def rowClrSh (a p k : Byte) : List (Byte × List Byte) :=
  (a, pos p 0x00 0x10) :: List.replicate 6 (a, 0x40 :: List.replicate 22 0) ++ [(a, pos p k 0x10)]

/-- The glyph write of `'X'`. -/
def glyphX : Byte × List Byte := (0x3C, [0x40, 0x58, 0x59, 0x5A, 0x5B, 0x5C, 0x5D, 0x5E, 0x5F])

/-! ## Well-formedness: a term no encoding stands for is refused -/

theorem test_wf_column_high : (Instr.columnAddressHigh 8).wf = false ∧ (Instr.columnAddressHigh 7).wf = true := by decide
theorem test_wf_start_line : (Instr.startLine 4).wf = false ∧ (Instr.startLine 56).wf = true := by decide

/-! ## Decoding: words written out bit by bit from R70 to R73, R80, R83 to R89 -/

theorem test_decode_init : decodeHost 0b00000001_00000001_00000000 = .ok (.init .ssd1306 0x00) ∧
    decodeHost 0b00000001_00000000_00111101 = .ok (.init .sh1106 0x3D) := by decide
theorem test_decode_printChar : decodeHost 0b00000010_01011000_00000000 = .ok (.printChar 0x58) := by decide
theorem test_decode_clear : decodeHost 0b00000011_00000000_00000000 = .ok .clear := by decide
theorem test_decode_clearLine : decodeHost 0b00000100_00000011_00000000 = .ok (.clearLine 3) := by decide
theorem test_decode_clearCurrentLine : decodeHost 0b00000101_00000000_00000000 = .ok .clearCurrentLine := by decide
theorem test_decode_setCursor : decodeHost 0b00000110_00000010_00000101 = .ok (.setCursor 2 5) := by decide
theorem test_decode_home : decodeHost 0b00000111_00000000_00000000 = .ok .home := by decide
theorem test_decode_setInverse : decodeHost 0b00001000_00000001_00000000 = .ok (.setInverse 1) := by decide
theorem test_decode_flip : decodeHost 0b00001001_00000001_00000000 = .ok (.flip 1) := by decide
theorem test_decode_setInverseFont : decodeHost 0b00001010_00000001_00000000 = .ok (.setInverseFont 1) := by decide
theorem test_decode_setPrintMode : decodeHost 0b00001011_00000010_00000000 = .ok (.setPrintMode 2) := by decide
theorem test_decode_setDisplayColumnOffset :
    decodeHost 0b00001100_00000011_00000000 = .ok (.setDisplayColumnOffset 3) := by decide
theorem test_decode_control : decodeWire config .control 0b10000000 = .ok .ctrlMore ∧
    decodeWire config .control 0b00000000 = .ok .ctrlLast ∧ decodeWire config .control 0b01000000 = .ok .ctrlData := by
  decide
theorem test_decode_pageAddress : decodeWire config .opcodeMore 0b10110_110 = .ok (.pageAddress 6) := by decide
theorem test_decode_columnAddressLow : decodeWire config .opcodeMore 0b0000_1011 = .ok (.columnAddressLow 11) := by decide
theorem test_decode_columnAddressHigh : decodeWire config .opcodeLast 0b00010_111 = .ok (.columnAddressHigh 7) := by decide
theorem test_decode_startLine : decodeWire config .opcodeLast 0b01_011_000 = .ok (.startLine 24) ∧
    decodeWire config .opcodeLast 0b01_000_000 = .ok (.startLine 0) := by decide
theorem test_decode_mode : decodeWire config .opcodeLast 0b10100110 = .ok .modeNormal ∧
    decodeWire config .opcodeLast 0b10100111 = .ok .modeInverse := by decide
theorem test_decode_segment : decodeWire config .opcodeMore 0b10100001 = .ok .segmentRemapUnflipped ∧
    decodeWire config .opcodeMore 0b10100000 = .ok .segmentRemapFlipped := by decide
theorem test_decode_scan : decodeWire config .opcodeLast 0b11001000 = .ok .scanDirectionUnflipped ∧
    decodeWire config .opcodeLast 0b11000000 = .ok .scanDirectionFlipped := by decide

/-- V80: the illegal words. -/
theorem test_illegal_words :
    decodeHost 0x000000 = .error (.unknownOp 0x00) ∧ decodeHost 0x0D0000 = .error (.unknownOp 0x0D) ∧
    decodeHost 0xFF0000 = .error (.unknownOp 0xFF) ∧ decodeHost 0x030100 = .error (.unusedOperand 0x03) ∧
    decodeHost 0x070001 = .error (.unusedOperand 0x07) ∧ decodeHost 0x025801 = .error (.unusedOperand 0x02) ∧
    decodeHost 0x0B0201 = .error (.unusedOperand 0x0B) ∧ decodeHost 0x050100 = .error (.unusedOperand 0x05) ∧
    decodeHost 0x01023C = .error (.chipSelector 0x02) := by decide

/-- R93: a byte outside its place is refused by name. -/
theorem test_misplaced_bytes :
    decodeWire config .control 0xB0 = .error (.notControl 0xB0) ∧
    decodeWire config .opcodeMore 0xAE = .error (.notOpcode 0xAE) ∧
    decodeWire config .data 0x40 = .error (.dataByte 0x40) ∧
    decodeWire config .closed 0x80 = .error (.afterBurst 0x80) := by decide

/-- Words as spec/opcode_table.json numbers them. -/
theorem test_table_words :
    decodeTableWord 24 0x060205 = some (.setCursor 2 5) ∧ decodeTableWord 24 0x0D0000 = none ∧
    decodeTableWord 8 0xB5 = some (.pageAddress 5) ∧ decodeTableWord 8 0x80 = some .ctrlMore ∧
    decodeTableWord 8 0xE3 = none ∧ decodeTableWord 16 0x0605 = none := by decide

/-- The word placed by `withFetchWord` is the one the next step runs. -/
theorem test_fetch_word :
    step (State.reset.withFetchWord 24 0x060205) = exec (.setCursor 2 5) State.reset ∧
    step (ssd.withFetchWord 8 0xB5) = exec (.pageAddress 5) { ssd with panel := ssd.panel.atPhase .opcodeMore } := ⟨rfl, rfl⟩

/-! ## INIT -/

/-- V20: the registers and the number of writes. -/
theorem test_init_auto :
    (writes 0x010100 (afterReset (List.replicate 100 true))).length = 87 ∧
    (issue 0x010100 (afterReset (List.replicate 100 true))).core = ssd.core := by decide +kernel

/-- V21: device B answers; the failed probe does not set `txerr`. -/
theorem test_init_second_address :
    writes 0x010000 (afterReset (false :: List.replicate 100 true)) =
      [(0x3C, []), (0x3D, []), (0x3D, [0x00, 0xAE]), (0x3D, [0x80, 0xA1, 0x00, 0xC8]), (0x3D, [0x00, 0xAF]),
       (0x3D, pos 0xB0 0x02 0x10)] ++
      [0xB0, 0xB1, 0xB2, 0xB3, 0xB4, 0xB5, 0xB6, 0xB7].flatMap (fun p => rowClrSh 0x3D p 0x02) ++
      [(0x3D, [0x00, 0x40]), (0x3D, pos 0xB0 0x02 0x10)] ∧
    (issue 0x010000 (afterReset (false :: List.replicate 100 true))).txerr = false := by decide +kernel

/-- V22, V24, V28: the failures. -/
theorem test_init_failures :
    writes 0x010100 (afterReset [false, false]) = [(0x3C, []), (0x3D, [])] ∧
    (issue 0x010100 (afterReset [false, false])).core = ({ afterReset [] with status := .deviceNotFound } : State).core ∧
    (issue 0x010155 (place ssd 3 5 0)).core =
      ({ place ssd 3 5 0 with connected := false, status := .invalidAddress } : State).core := by decide +kernel

/-! ## PRINT_CHAR -/

/-- V30, V31: a glyph needs no positioning; the sixteenth leaves the wrap pending. -/
theorem test_print_char :
    writes 0x025800 (place ssd 2 5 0) = [glyphX] ∧ cursor 0x025800 (place ssd 2 5 0) = (2, 6, 0) ∧
    writes 0x025800 (place ssd 2 15 0) = [glyphX] ∧ cursor 0x025800 (place ssd 2 15 0) = (2, 16, 0) := by decide +kernel

/-- V32: the pending wrap in the three modes. -/
theorem test_print_wrap :
    writes 0x025800 (place ssd 2 16 0) = [(0x3C, pos 0xB2 0x00 0x10), glyphX] ∧
    cursor 0x025800 (place ssd 2 16 0) = (2, 1, 0) ∧
    writes 0x025800 (inMode .overwriteNextLine (place ssd 2 16 0)) = [(0x3C, pos 0xB3 0x00 0x10), glyphX] ∧
    cursor 0x025800 (inMode .overwriteNextLine (place ssd 2 16 0)) = (3, 1, 0) ∧
    writes 0x025800 (inMode .scrollLine (place ssd 2 16 0)) =
      (0x3C, pos 0xB3 0x00 0x10) :: rowClr 0xB3 ++ [glyphX] ∧
    cursor 0x025800 (inMode .scrollLine (place ssd 2 16 0)) = (3, 1, 0) := by decide +kernel

/-- V35: the pending wrap on the last line. -/
theorem test_print_wrap_last_line :
    cursor 0x025800 (place ssd 7 16 0) = (7, 1, 0) ∧
    cursor 0x025800 (inMode .overwriteNextLine (place ssd 7 16 0)) = (0, 1, 0) ∧
    writes 0x025800 (inMode .scrollLine (place ssd 7 16 3)) =
      (0x3C, [0x00, 0x60]) :: (0x3C, pos 0xB3 0x00 0x10) :: rowClr 0xB3 ++ [glyphX] ∧
    cursor 0x025800 (inMode .scrollLine (place ssd 7 16 3)) = (7, 1, 4) := by decide +kernel

/-- V36, V37: the newline, also with the wrap pending. -/
theorem test_newline :
    writes 0x020A00 (place ssd 7 4 0) = [(0x3C, pos 0xB0 0x00 0x10)] ∧ cursor 0x020A00 (place ssd 7 4 0) = (0, 0, 0) ∧
    writes 0x020A00 (place ssd 3 16 0) = [(0x3C, pos 0xB4 0x00 0x10)] ∧ cursor 0x020A00 (place ssd 3 16 0) = (4, 0, 0) := by
  decide +kernel

/-- V38, V39: the scroll window wraps; a scroll on SH1106. -/
theorem test_newline_scroll :
    writes 0x020A00 (inMode .scrollLine (place ssd 7 0 7)) =
      (0x3C, [0x00, 0x40]) :: (0x3C, pos 0xB7 0x00 0x10) :: rowClr 0xB7 ∧
    cursor 0x020A00 (inMode .scrollLine (place ssd 7 0 7)) = (7, 0, 0) ∧
    writes 0x020A00 (inMode .scrollLine (place (sh 0x3C) 7 3 0)) =
      (0x3C, [0x00, 0x48]) :: (0x3C, pos 0xB0 0x02 0x10) :: rowClrSh 0x3C 0xB0 0x02 := by decide +kernel

/-- V3A: ignored codes, the wrap stays pending. -/
theorem test_ignored_codes :
    ([0x020900, 0x027F00, 0x028000, 0x021F00, 0x020D00, 0x020000, 0x02FF00].all fun w =>
      writes w (place ssd 3 16 0) = [] && cursor w (place ssd 3 16 0) = (3, 16, 0)) = true := by decide +kernel

/-- V3B, V3C: the ends of the printable range, in the inverse font. -/
theorem test_inverse_font_glyphs :
    writes 0x022000 { ssd with inverseFont := true } = [(0x3C, [0x40, 0xDF, 0xDE, 0xDD, 0xDC, 0xDB, 0xDA, 0xD9, 0xD8])] ∧
    writes 0x027E00 { ssd with inverseFont := true } = [(0x3C, [0x40, 0x81, 0x80, 0x7F, 0x7E, 0x7D, 0x7C, 0x7B, 0x7A])] ∧
    serialize true ⟨0x00, 0xFF, 0x81, 0x7E, 0x01, 0x80, 0x55, 0xAA⟩ = [0xFF, 0x00, 0x7E, 0x81, 0xFE, 0x7F, 0xAA, 0x55] := by
  decide +kernel

/-! ## SET_CURSOR, HOME -/

/-- V40, V41 and the last row of V4. -/
theorem test_set_cursor :
    writes 0x06070F ssd = [(0x3C, pos 0xB7 0x08 0x17)] ∧ cursor 0x06070F ssd = (7, 15, 0) ∧
    writes 0x060605 (place ssd 1 1 3) = [(0x3C, pos 0xB1 0x08 0x12)] ∧
    writes 0x06070F { place (sh 0x3C) 0 0 7 with columnOffset := 3 } = [(0x3C, pos 0xB6 0x0B 0x17)] := by decide +kernel

/-- V40: out of range. -/
theorem test_set_cursor_out_of_range :
    writes 0x060800 (place ssd 7 15 0) = [] ∧ cursor 0x060800 (place ssd 7 15 0) = (7, 15, 0) ∧
    writes 0x060010 (place ssd 7 15 0) = [] ∧ cursor 0x060010 (place ssd 7 15 0) = (7, 15, 0) := by decide +kernel

/-- V41. -/
theorem test_home : writes 0x070000 (place ssd 6 5 3) = [(0x3C, pos 0xB3 0x00 0x10)] ∧
    cursor 0x070000 (place ssd 6 5 3) = (0, 0, 3) := by decide +kernel

/-! ## The clear family -/

/-- V50, V51. -/
theorem test_clear_line :
    writes 0x040300 (place ssd 1 9 0) = rowClr 0xB3 ∧ cursor 0x040300 (place ssd 1 9 0) = (3, 0, 0) ∧
    writes 0x040300 (place (sh 0x3D) 1 9 1) = rowClrSh 0x3D 0xB4 0x02 ∧
    writes 0x040300 { place (sh 0x3D) 1 9 1 with cfg := { config with clearSweepStart := .columnOffset } } =
      (0x3D, pos 0xB4 0x02 0x10) :: (rowClrSh 0x3D 0xB4 0x02).tail := by decide +kernel

/-- V54. -/
theorem test_clear_line_out_of_range :
    writes 0x040800 ssd = [] ∧ cursor 0x04FF00 (place ssd 1 9 0) = (1, 9, 0) := by decide +kernel

/-- V52. -/
theorem test_clear :
    writes 0x030000 (place ssd 5 7 2) =
      [0xB2, 0xB3, 0xB4, 0xB5, 0xB6, 0xB7, 0xB0, 0xB1].flatMap rowClr ++
        [(0x3C, [0x00, 0x40]), (0x3C, pos 0xB0 0x00 0x10)] ∧
    cursor 0x030000 (place ssd 5 7 2) = (0, 0, 0) := by decide +kernel

/-- V53. -/
theorem test_clear_current_line :
    writes 0x050000 (place ssd 5 16 0) = rowClr 0xB5 ∧ cursor 0x050000 (place ssd 5 16 0) = (5, 0, 0) := by decide +kernel

/-! ## SET_INVERSE, FLIP -/

/-- V60. -/
theorem test_set_inverse :
    writes 0x080100 ssd = [(0x3C, [0x00, 0xA7])] ∧ writes 0x080000 ssd = [(0x3C, [0x00, 0xA6])] ∧
    writes 0x08FF00 ssd = [(0x3C, [0x00, 0xA7])] ∧ (issue 0x080100 ssd).inverseFont = false := by decide +kernel

/-- V61, V62. -/
theorem test_flip :
    (writes 0x090100 (place ssd 3 3 4)).head? = some (0x3C, [0x80, 0xA0, 0x00, 0xC0]) ∧
    (writes 0x090100 (place ssd 3 3 4)).length = 83 ∧ cursor 0x090100 (place ssd 3 3 4) = (0, 0, 0) ∧
    (writes 0x090000 ssd).head? = some (0x3C, [0x80, 0xA1, 0x00, 0xC8]) := by decide +kernel

/-- V61 with `FLIP_FRAMING = TWO_BURSTS`. -/
theorem test_flip_two_bursts :
    (writes 0x090100 { ssd with cfg := { config with flipFraming := .twoBursts } }).take 2 =
      [(0x3C, [0x00, 0xA0]), (0x3C, [0x00, 0xC0])] ∧
    (writes 0x090100 { ssd with cfg := { config with flipFraming := .twoBursts } }).length = 84 := by decide +kernel

/-! ## SET_PRINT_MODE, SET_INVERSE_FONT, SET_DISPLAY_COLUMN_OFFSET -/

/-- V70. -/
theorem test_set_print_mode :
    (issue 0x0B0200 ssd).printMode = .scrollLine ∧ (issue 0x0B0300 (inMode .scrollLine ssd)).printMode = .scrollLine ∧
    (issue 0x0B0100 (inMode .scrollLine ssd)).printMode = .overwriteNextLine ∧ writes 0x0B0200 ssd = [] := by
  decide +kernel

/-- V71. -/
theorem test_set_inverse_font :
    (issue 0x0A0100 ssd).inverseFont = true ∧ (issue 0x0A0000 { ssd with inverseFont := true }).inverseFont = false ∧
    (issue 0x0A8000 ssd).inverseFont = true ∧ writes 0x0A8000 ssd = [] := by decide +kernel

/-- V72. -/
theorem test_set_display_column_offset :
    (issue 0x0C0300 (sh 0x3C)).columnOffset = 3 ∧ (issue 0x0C0400 { sh 0x3C with columnOffset := 3 }).columnOffset = 3 ∧
    (issue 0x0C0000 (sh 0x3C)).columnOffset = 0 ∧ writes 0x0C0300 (sh 0x3C) = [] := by decide +kernel

/-- V73: forced to 0 on SSD1306. -/
theorem test_set_display_column_offset_forced : (issue 0x0C0300 ssd).columnOffset = 0 := by decide +kernel

/-! ## Disconnected, illegal words, transport failures -/

/-- V27. -/
theorem test_disconnected :
    ([0x060205, 0x025800, 0x0B0200, 0x030000, 0x090100, 0x080100, 0x0A0100, 0x0C0100, 0x040300, 0x050000, 0x070000].all
      fun w => issue w (inMode .scrollLine (afterReset [])) = inMode .scrollLine (afterReset [])) = true := by
  decide +kernel

/-- V80: an illegal word leaves the block as it is. -/
theorem test_illegal_word_no_effect : issue 0x01023C ssd = ssd ∧ issue 0x025801 ssd = ssd := by decide +kernel

/-- V90: a failed burst stops nothing. -/
theorem test_transport_failure :
    (issue 0x025800 { inMode .scrollLine (place ssd 7 16 0) with
      answers := [false, true, true, false] ++ List.replicate 9 true }).tx.map (fun e => (e.bytes.length, e.ok)) =
      [(2, false), (6, true), (6, true), (17, false)] ++ List.replicate 7 (17, true) ++ [(6, true), (9, true)] ∧
    (issue 0x025800 { inMode .scrollLine (place ssd 7 16 0) with
      answers := [false, true, true, false] ++ List.replicate 9 true }).txerr = true ∧
    cursor 0x025800 { inMode .scrollLine (place ssd 7 16 0) with
      answers := [false, true, true, false] ++ List.replicate 9 true } = (7, 1, 1) := by decide +kernel

/-- V92: `txerr` is sticky. -/
theorem test_txerr_sticky : (issue 0x070000 { ssd with txerr := true }).txerr = true := by decide +kernel

/-! ## The wire -/

/-- V1, V2: framing. -/
theorem test_framing :
    frameCmd config ⟨[], 0xA7⟩ = [0x00, 0xA7] ∧ frameCmd config ⟨[0xA0], 0xC0⟩ = [0x80, 0xA0, 0x00, 0xC0] ∧
    frameCmd config ⟨[0xB2, 0x08], 0x12⟩ = [0x80, 0xB2, 0x80, 0x08, 0x00, 0x12] ∧
    frameData config [1, 2, 3] = [0x40, 1, 2, 3] := by decide

/-- V3: a command burst parsed by the controller, and a start-line burst. -/
theorem test_parse_position :
    (Panel.reset.deliver config 132 [0x80, 0xB3, 0x80, 0x0A, 0x00, 0x10]).page = 3 ∧
    (Panel.reset.deliver config 132 [0x80, 0xB3, 0x80, 0x0A, 0x00, 0x10]).column = 10 ∧
    (Panel.reset.deliver config 132 [0x00, 0x58]).startLine = 24 := by decide

/-- V3: a data burst of two bytes, from page 3, pixel column 10. -/
theorem test_parse_data :
    ({ Panel.reset with page := 3, columnHigh := 0, columnLow := 10 }.deliver config 132 [0x40, 0xFF, 0x00]).ram =
      [(3 * 256 + 10, 0xFF), (3 * 256 + 11, 0x00)] := by decide

/-- Mode and orientation opcodes reach the controller (V60, V61). -/
theorem test_modes_reach_controller :
    (issue 0x080100 ssd).panel.inverse = true ∧
    (Panel.reset.deliver config 132 [0x80, 0xA0, 0x00, 0xC0]).segFlipped = true ∧
    (Panel.reset.deliver config 132 [0x80, 0xA0, 0x00, 0xC0]).scanFlipped = true := by decide +kernel

/-- A wire byte as an instruction of the controller (R83, R93). -/
theorem test_bus_byte :
    step { ssd with inputs := [.busByte 0x80, .busByte 0xB5] } =
      .next { ssd with inputs := [.busByte 0xB5], panel := ssd.panel.atPhase .opcodeMore } ∧
    step { ssd with inputs := [.busByte 0xB5], panel := ssd.panel.atPhase .opcodeMore } =
      .next { ssd with panel := { ssd.panel with page := 5 } } := ⟨rfl, rfl⟩

/-- R93: after an opcode of another kind (`80 D5 00 80`) a control byte follows, and the burst goes on. -/
theorem test_parse_other_opcode :
    ([0x80, 0xD5].foldl (Panel.receive config 132) Panel.reset).phase = .control ∧
    ([0x80, 0xD5, 0x00, 0x80].foldl (Panel.receive config 132) Panel.reset).phase = .closed := by decide +kernel

/-- A reset while `PRINT_CHAR` of V35.2 is in progress (R200): its first two writes have been made, the block is reset. -/
theorem test_reset_in_progress :
    ∃ t, step { inMode .scrollLine (place ssd 7 16 3) with inputs := [.opReset 0x025800 2] } = .next t ∧
      t.tx.map (fun e => e.bytes) = [[0x00, 0x60], pos 0xB3 0x00 0x10] ∧ t.connected = false ∧ t.lineOffset = 0 :=
  ⟨_, rfl, by decide +kernel, rfl, rfl⟩

/-- A reset after seven writes of `INIT` (R200): the probe, the stand-in power-on table, the position of R151, then the position and
the first sweep burst of line 0 (R160). The controller keeps what they left (R57, R207): 16 zeros and the pointer behind them, the
orientation of the table. -/
theorem test_reset_cuts_init :
    ∃ t, step { afterReset (List.replicate 90 true) with
        panel := { Panel.reset with segFlipped := true }, inputs := [.opReset 0x01013C 7] } = .next t ∧
      t.tx.length = 7 ∧ t.connected = false ∧ t.chip = .sh1106 ∧ t.panel.page = 0 ∧ t.panel.column = 16 ∧
      t.panel.segFlipped = false ∧ t.ramByte 0 0 = some 0 ∧ t.ramByte 0 15 = some 0 ∧ t.ramByte 0 16 = none :=
  ⟨_, rfl, by decide +kernel, rfl, rfl, by decide +kernel, by decide +kernel, by decide +kernel, by decide +kernel,
    by decide +kernel, by decide +kernel⟩

/-- A reset after the failed probe of an `INIT`: one write, and the controller as it was (log entry 7). -/
theorem test_reset_after_failed_probe :
    ∃ t, step { afterReset [false] with
        panel := { Panel.reset with page := 2, columnLow := 8 }, inputs := [.opReset 0x01013C 1] } = .next t ∧
      t.tx.length = 1 ∧ t.panel = { Panel.reset with page := 2, columnLow := 8 } := ⟨_, rfl, by decide +kernel, by decide +kernel⟩

/-- A reset event (R200). -/
theorem test_reset_event :
    step { place ssd 3 4 5 with txerr := true, inputs := [.reset] } = .next (afterReset (List.replicate 100 true)) := rfl

/-! ## Assembler (R76), pseudo-operations (R112, R113) -/

theorem test_assemble :
    assembleLine config "SET_CURSOR 7, 0x0F ; the last cell".toList = some [0x06070F] ∧
    assembleLine config "INIT SSD1306, AUTO".toList = some [0x010100] ∧
    assembleLine config "PRINT_CHAR '\\n'".toList = some [0x020A00] ∧
    assembleLine config "PRINT_CHAR 'X'".toList = some [0x025800] ∧
    assembleLine config "HOME 1".toList = none := by decide +kernel

/-- P1, P5: the pseudo-operations' expansions. -/
theorem test_pseudo :
    assembleLine config "PRINTLN \"ABC\"".toList = some [0x024100, 0x024200, 0x024300, 0x020A00] ∧
    assembleLine config "PRINT \"i!\\x07\\nx\"".toList = some [0x026900, 0x022100, 0x020700, 0x020A00, 0x027800] ∧
    printlnOps [0x41] = [.printChar 0x41, .printChar 0x0A] := by decide +kernel

/-! ## Witnesses: states and operands that meet the hypotheses of the statements -/

/-- `ssd` with its controller pointing at line 2, column 5, the display RAM not empty. -/
def pointing : State :=
  { place ssd 2 5 0 with
    panel := { Panel.reset with page := 2, columnHigh := 2, columnLow := 8, ram := [(0, 0xAA), (2 * 256 + 127, 0x55)] } }

/-- `ssd` with more answers. -/
def ssdLong : State := { ssd with answers := List.replicate 170 true }

theorem test_config : config.Valid ∧ config.OpcodesDisjoint ∧ config.clearSweepStart = .zero := by decide +kernel

/-- The default parameters obey R8 whatever their power-on tables are: R153's constraint is put on the free tables. -/
theorem test_default_config : Config.default.Valid ∧ Config.default.OpcodesDisjoint ∧ Config.default.clearSweepStart = .zero := by
  refine ⟨⟨by decide, by decide, by decide, by decide, fun b hb => ?_⟩, by decide +kernel, rfl⟩
  simp only [Config.default, ← List.map_append, List.mem_map] at hb
  obtain ⟨b, -, rfl⟩ := hb
  exact PowerOnBurst.unflip_ok (by decide) (by decide) (by decide) (by decide) b

/-- R153 bans no argument byte: a contrast argument 0xC0 after its command is allowed, a flipped command is not. -/
theorem test_power_on_constraint :
    { config with powerOnSH1106 := [⟨[⟨0x81, false⟩], ⟨0xC0, true⟩⟩] }.PowerOnUnflipped ∧
    ¬ { config with powerOnSH1106 := [⟨[⟨0x81, false⟩], ⟨0xC0, false⟩⟩] }.PowerOnUnflipped := by decide +kernel
theorem test_pointing_inv : pointing.Inv := ⟨by decide, by decide, by decide, by decide, by decide⟩
theorem test_pointing_coherent : pointing.Coherent := ⟨by decide, by decide, by decide⟩
theorem test_ssd_inv : ssd.Inv := ⟨by decide, by decide, by decide, by decide, by decide⟩
theorem test_ssd_coherent : ssd.Coherent := ⟨by decide, by decide, by decide⟩

/-- DecodeInvertsEncode: the ends of the two narrow operands, and a host word. -/
theorem test_witness_decode_inverts_encode :
    (Instr.startLine 56).wf = true ∧ (Instr.startLine 56).fitsPhase .opcodeLast ∧
    (Instr.columnAddressHigh 7).wf = true ∧ (Instr.columnAddressHigh 7).fitsPhase .opcodeMore ∧
    Instr.ctrlLast.wf = true ∧ Instr.ctrlLast.fitsPhase .control ∧
    (Instr.setCursor 0xFF 0xFF).wf = true ∧ (Instr.setCursor 0xFF 0xFF).fitsPhase .closed := by
  refine ⟨rfl, .inr (.inr ⟨rfl, .inr rfl⟩), rfl, .inr (.inr ⟨rfl, .inl rfl⟩), rfl, .inr (.inl ⟨rfl, rfl⟩), rfl, .inl rfl⟩

/-- StepRunsThePresentedInstruction, IllegalWordHasNoEffect, ResetEventClearsTheBlockOnly, NothingPresentedNothingHappens. -/
theorem test_witness_step :
    ({ ssd with inputs := [.op 0x070000] } : State).inputs = .op 0x070000 :: [] ∧ decodeHost 0x070000 = .ok .home ∧
    ({ ssd with inputs := [.busByte 0x80] } : State).inputs = .busByte 0x80 :: [] ∧
    decodeWire ssd.cfg ssd.panel.phase 0x80 = .ok .ctrlMore ∧
    decodeHost 0x070001 = .error (.unusedOperand 0x07) ∧
    ({ ssd with inputs := [.reset] } : State).inputs = .reset :: [] ∧ ssd.inputs = [] := by decide

/-- EveryStepKeepsTheInvariant: one step for each kind of event. -/
theorem test_witness_step_invariant :
    pointing.Inv ∧ (∃ t, step { pointing with inputs := [.op 0x020A00] } = .next t) ∧
    (∃ t, step { pointing with inputs := [.busByte 0x40] } = .next t) ∧
    (∃ t, step { pointing with inputs := [.reset] } = .next t) := ⟨test_pointing_inv, ⟨_, rfl⟩, ⟨_, rfl⟩, ⟨_, rfl⟩⟩

/-- RegistersWrittenOnlyByTheirOperations, EveryWriteIsAProbeOrOneBurst, TxerrRecordsFailedBurstsOnly, WritesAreBounded,
ControllerIsNeverReadBack, ControllerReceivesExactlyTheWrites. -/
theorem test_witness_exec :
    Instr.isHost .home = true ∧ (∀ c r, Instr.home ≠ .init c r) ∧ (∃ t, exec .home pointing = .next t) ∧
    (∃ t, exec (.init .ssd1306 0) pointing = .next t) := ⟨rfl, fun _ _ h => (nomatch h), ⟨_, rfl⟩, ⟨_, rfl⟩⟩

/-- DisconnectedBlockDoesNothing. -/
theorem test_witness_disconnected :
    Instr.isHost .clear = true ∧ (∀ c r, Instr.clear ≠ .init c r) ∧ (afterReset []).connected = false :=
  ⟨rfl, fun _ _ h => (nomatch h), rfl⟩

/-- AnswersChangeOnlyTxerr: the same operation with its write answered either way. -/
theorem test_witness_answers :
    ({ ssd with answers := [true] } : State).core = ({ ssd with answers := [false] } : State).core ∧
    (∃ t, exec .home { ssd with answers := [true] } = .next t ∧ t.txerr = false) ∧
    (∃ t, exec .home { ssd with answers := [false] } = .next t ∧ t.txerr = true) :=
  ⟨rfl, ⟨_, rfl, by decide +kernel⟩, ⟨_, rfl, by decide +kernel⟩⟩

/-- DataBurstFraming, CommandBurstFraming, PositionBurst, ScrollOneLine at the ends of their ranges (V4, V5). -/
theorem test_witness_bursts :
    ((place (sh 0x3C) 0 0 7).position 7 15).tx.map (fun e => e.bytes) = [pos 0xB6 0x0A 0x17] ∧
    (place ssd 0 0 7).scrollOne.tx.map (fun e => e.bytes) = [[0x00, 0x40]] ∧
    (place ssd 0 0 6).scrollOne.tx.map (fun e => e.bytes) = [[0x00, 0x78]] := by decide +kernel

/-- SetCursorResult: the two clauses at their ends. -/
theorem test_witness_set_cursor :
    ssd.connected = true ∧ ((7 : Byte).toNat < 8 ∧ (15 : Byte).toNat < 16) ∧ ¬ ((8 : Byte).toNat < 8 ∧ (15 : Byte).toNat < 16) ∧
    ¬ ((7 : Byte).toNat < 8 ∧ (16 : Byte).toNat < 16) := by decide

/-- PrintableCodeWithoutWrap, PrintableCodeWithPendingWrap: first and last printable code, last free column, pending wrap. -/
theorem test_witness_printable :
    (place ssd 2 15 0).connected = true ∧ 32 ≤ (32 : Byte).toNat ∧ (32 : Byte).toNat < 127 ∧ 32 ≤ (126 : Byte).toNat ∧
    (126 : Byte).toNat < 127 ∧ (place ssd 2 15 0).column.toNat < 16 ∧ 16 ≤ (place ssd 2 16 0).column.toNat := by decide

/-- OtherCodesAreIgnored: the codes next to the printable ones and to the newline. -/
theorem test_witness_other_codes :
    (31 : Byte) ≠ 0x0A ∧ (31 : Byte).toNat < 32 ∧ (0x0B : Byte) ≠ 0x0A ∧ (0x0B : Byte).toNat < 32 ∧ (127 : Byte) ≠ 0x0A ∧
    127 ≤ (127 : Byte).toNat := by decide

/-- SixteenCodesLeaveTheWrapPending (V10, steps 1 to 16). -/
theorem test_witness_sixteen_codes :
    ssd.connected = true ∧ ssd.column = 0 ∧ (List.replicate 16 (0x58 : Byte)).length = 16 ∧
    (∀ k ∈ List.replicate 16 (0x58 : Byte), 32 ≤ k.toNat ∧ k.toNat < 127) ∧
    ∃ t, execAll (printOps (List.replicate 16 0x58)) ssd = .next t ∧ t.column = 16 := by
  refine ⟨rfl, rfl, rfl, fun k hk => ?_, _, rfl, by decide +kernel⟩
  obtain rfl := List.eq_of_mem_replicate hk
  decide

/-- SetPrintModeResult, SetInverseFontResult, SetDisplayColumnOffsetResult, ClearLineResult: each clause at its ends. -/
theorem test_witness_operand_clauses :
    (2 : Byte).toNat = 2 ∧ 3 ≤ (3 : Byte).toNat ∧ (0 : Byte).toNat = 0 ∧ (1 : Byte).toNat ≠ 0 ∧ (0xFF : Byte).toNat ≠ 0 ∧
    (3 : Byte).toNat ≤ 3 ∧ 4 ≤ (4 : Byte).toNat ∧ (sh 0x3C).chip = .sh1106 ∧ ssd.chip = .ssd1306 ∧ (sh 0x3C).connected = true ∧
    (7 : Byte).toNat < 8 ∧ 8 ≤ (8 : Byte).toNat := by decide

/-- InitFailures, InitExplicitAddressNotAcknowledged: an address next to the set, no device, one address. -/
theorem test_witness_init_failures :
    (0x3E : Byte) ≠ config.addrA ∧ (0x3E : Byte) ≠ config.addrB ∧ (0x3E : Byte) ≠ config.addrAuto ∧
    (afterReset [false, false]).answerAt 0 = false ∧ (afterReset [false, false]).answerAt 1 = false ∧
    (afterReset [false]).answerAt 0 = false := by decide

/-- InitSuccess: the three ways to find a device. -/
theorem test_witness_init_success :
    (afterReset [true]).answerAt 0 = true ∧ (0x3D : Byte) = config.addrB ∧ (0x00 : Byte) = config.addrAuto ∧
    (afterReset [false, true]).answerAt 0 = false ∧ (afterReset [false, true]).answerAt 1 = true := by decide

/-- InitWriteCount: its four clauses, with the counts of V24, V23, V22, V26. -/
theorem test_witness_init_write_count :
    (∃ t, exec (.init .ssd1306 0x55) (afterReset []) = .next t ∧ t.status = .invalidAddress ∧ t.tx.length = 0) ∧
    (∃ t, exec (.init .ssd1306 0x3D) (afterReset [false]) = .next t ∧ t.status = .deviceNotFound ∧ t.tx.length = 1) ∧
    (∃ t, exec (.init .ssd1306 0x00) (afterReset [false, false]) = .next t ∧ t.status = .deviceNotFound ∧ t.tx.length = 2) ∧
    (∃ t, exec (.init .sh1106 0x3D) (afterReset (List.replicate 80 true)) = .next t ∧ t.status = .ok ∧ t.tx.length = 71) :=
  ⟨⟨_, rfl, by decide +kernel⟩, ⟨_, rfl, by decide +kernel⟩, ⟨_, rfl, by decide +kernel⟩, ⟨_, rfl, by decide +kernel⟩⟩

/-- CommandBurstIsItsOpcodesInOrder: the burst of V3. -/
theorem test_witness_command_burst :
    (⟨[0xB3, 0x0A], 0x10⟩ : CmdBurst).opcodes.map (decodeOpcode config) =
      [Instr.pageAddress 3, .columnAddressLow 10, .columnAddressHigh 0].map Except.ok := by decide

/-- DataBurstFillsConsecutiveColumns: a burst up to the last pixel column. -/
theorem test_witness_data_burst :
    ({ Panel.reset with columnHigh := 7, columnLow := 14 } : Panel).column.toNat + [(1 : Byte), 2].length ≤ chipWidth .ssd1306 := by
  decide

/-- PointersFollowTheCursor, PanelModesFollowTheirOperations: a pending wrap resolved in SCROLL_LINE mode, and a mode opcode. -/
theorem test_witness_pointers :
    Instr.isHost (.printChar 0x58) = true ∧ (∀ n, Instr.printChar 0x58 ≠ .setDisplayColumnOffset n) ∧
    (∀ c r, Instr.printChar 0x58 ≠ .init c r) ∧ pointing.connected = true ∧
    (∃ t, exec (.printChar 0x58) (inMode .scrollLine pointing) = .next t ∧ t.txerr = false) ∧
    (∃ t, exec (.setInverse 1) pointing = .next t ∧ t.txerr = false) ∧
    (∃ t, exec (.flip 0) pointing = .next t ∧ t.txerr = false) := by
  refine ⟨rfl, fun _ h => (nomatch h), fun _ _ h => (nomatch h), rfl, ⟨_, rfl, ?_⟩, ⟨_, rfl, ?_⟩, ⟨_, rfl, ?_⟩⟩ <;>
    decide +kernel

/-- ClearingZeroesTheDisplay: the three operations. -/
theorem test_witness_clearing :
    (∃ t, exec (.init .ssd1306 0x3C) pointing = .next t ∧ t.status = .ok ∧ t.txerr = false) ∧
    (∃ t, exec .clear pointing = .next t ∧ t.txerr = false) ∧
    (∃ t, exec (.flip 1) pointing = .next t ∧ t.txerr = false) := by
  refine ⟨⟨_, rfl, ?_⟩, ⟨_, rfl, ?_⟩, ⟨_, rfl, ?_⟩⟩ <;> decide +kernel

/-- GlyphLandsInItsCell: the cell (2, 5) is pixel columns 40 to 47 of page 2 (V30). -/
theorem test_witness_glyph :
    ∃ t, exec (.printChar 0x58) pointing = .next t ∧ t.txerr = false ∧ t.ramByte 2 40 = some 0x58 ∧ t.ramByte 2 47 = some 0x5F ∧
      t.ramByte 2 48 = none ∧ t.ramByte 2 127 = some 0x55 := ⟨_, rfl, by decide +kernel⟩

/-- GlyphAfterPendingWrapLandsInColumnZero, ScrollingNewlineZeroesTheEnteredPageOnly: on the last line and before it. -/
theorem test_witness_wrap :
    (∃ t, exec (.printChar 0x58) (inMode .scrollLine (place ssd 7 16 3)) = .next t ∧ t.txerr = false ∧
      (t.line.toNat + t.lineOffset.toNat) % 8 = 3) ∧
    (∃ t, exec (.printChar 0x58) (place ssd 7 16 3) = .next t ∧ t.txerr = false ∧
      (t.line.toNat + t.lineOffset.toNat) % 8 = 2) ∧
    (∃ t, exec (.printChar 0x0A) (inMode .scrollLine (place ssd 7 4 3)) = .next t ∧ t.txerr = false ∧
      (t.line.toNat + t.lineOffset.toNat) % 8 = 3) ∧
    (∃ t, exec (.printChar 0x0A) (inMode .scrollLine (place ssd 6 4 3)) = .next t ∧ t.txerr = false ∧
      (t.line.toNat + t.lineOffset.toNat) % 8 = 2) := by
  refine ⟨⟨_, rfl, ?_⟩, ⟨_, rfl, ?_⟩, ⟨_, rfl, ?_⟩, ⟨_, rfl, ?_⟩⟩ <;> decide +kernel

/-- ClearLineZeroesItsPageOnly: the last row, and the current one. -/
theorem test_witness_clear_line :
    (∃ t, exec (.clearLine (BitVec.ofNat 8 7)) pointing = .next t ∧ t.txerr = false) ∧
    (∃ t, exec .clearCurrentLine pointing = .next t ∧ t.txerr = false) := by
  refine ⟨⟨_, rfl, ?_⟩, ⟨_, rfl, ?_⟩⟩ <;> decide +kernel

/-- FormsThatStoreNothingLeaveTheDisplay: each form. -/
theorem test_witness_no_store :
    ([Instr.setCursor 7 15, .setCursor 8 0, .home, .setInverse 1, .setInverseFont 1, .setPrintMode 2, .setDisplayColumnOffset 3,
      .printChar 0x0A, .printChar 31, .printChar 127].all fun i =>
      match exec i pointing with
      | .next t => t.txerr = false
      | .fault _ => false
      | .refused _ => false) = true ∧ pointing.printMode ≠ .scrollLine := by decide +kernel

/-- FlipThereAndBack. -/
theorem test_witness_flip_twice :
    ssdLong.Inv ∧ ssdLong.connected = true ∧
    ∃ t u, exec (.flip 1) ssdLong = .next t ∧ exec (.flip 0) t = .next u ∧ u.txerr = false :=
  ⟨⟨by decide, by decide, by decide, by decide, by decide⟩, rfl, _, _, rfl, rfl, by decide +kernel⟩

/-- BusEventsLeaveTheBlock: each kind of event. -/
theorem test_witness_bus_events :
    ({ ssd with inputs := [.busByte 0xB0] } : State).inputs = .busByte 0xB0 :: [] ∧
    decodeWire ssd.cfg ssd.panel.phase 0xB0 = .error (.notControl 0xB0) ∧
    ({ ssd with inputs := [.busStop] } : State).inputs = .busStop :: [] ∧
    ({ ssd with inputs := [.controllerReset] } : State).inputs = .controllerReset :: [] := by decide

/-- ResetEndsTheOperationInProgress: an operation, one cut by no write, an INIT cut in its power-on table and one behind it, and an
illegal word. -/
theorem test_witness_reset_in_progress :
    ({ ssd with inputs := [.opReset 0x030000 5] } : State).inputs = .opReset 0x030000 5 :: [] ∧ decodeHost 0x030000 = .ok .clear ∧
    (∃ u, exec .clear { ssd with inputs := [] } = .next u ∧ 5 < u.tx.length) ∧
    (∃ u, exec .home { ssd with inputs := [] } = .next u ∧ u.tx.length = 1) ∧
    decodeHost 0x010100 = .ok (.init .ssd1306 0x00) ∧
    (∃ u, exec (.init .ssd1306 0x00) (afterReset (false :: List.replicate 90 true)) = .next u ∧ (powerOnBursts config .ssd1306).length = 3 ∧
      ((u.tx.take 4).map fun e => e.bytes) = [[], [], [0x00, 0xAE], [0x80, 0xA1, 0x00, 0xC8]] ∧
      ((u.tx.drop 5).head?.map fun e => e.bytes) = some (pos 0xB0 0x00 0x10)) ∧
    decodeHost 0x000000 = .error (.unknownOp 0x00) :=
  ⟨rfl, by decide, ⟨_, rfl, by decide +kernel⟩, ⟨_, rfl, by decide +kernel⟩, by decide,
    ⟨_, rfl, by decide, by decide +kernel, by decide +kernel⟩, by decide⟩

/-- PowerOnOrientationIsUnflipped, from a controller left flipped: the stand-in table names both unflipped opcodes. -/
theorem test_witness_power_on :
    ∃ t u v, exec (.init .ssd1306 0x3C)
        { afterReset (List.replicate 300 true) with panel := { Panel.reset with segFlipped := true, scanFlipped := true } } = .next t ∧
      t.status = .ok ∧ t.txerr = false ∧ exec (.flip 1) t = .next u ∧ exec (.flip 0) u = .next v ∧ v.txerr = false ∧
      (∃ b ∈ powerOnBursts config .ssd1306, b.hasCommand config.opSegUnflipped) ∧
      (∃ b ∈ powerOnBursts config .ssd1306, b.hasCommand config.opScanUnflipped) :=
  ⟨_, _, _, rfl, by decide +kernel, by decide +kernel, rfl, rfl, by decide +kernel, by decide, by decide⟩

/-- A table without orientation opcodes, the other clause: the setting stays. -/
theorem test_power_on_without_orientation :
    ¬ (∃ b ∈ [(⟨[⟨0x81, false⟩], ⟨0xA1, true⟩⟩ : PowerOnBurst)], b.hasCommand config.opSegUnflipped) ∧
    (Panel.powerOn config ⟨[⟨0x81, false⟩], ⟨0xA1, true⟩⟩ { Panel.reset with segFlipped := true }).segFlipped = true := by
  decide +kernel

end Sys2Proof.Tests
end

section
/-! PROOF. The transport port is write-only (20_memory.md R53): every procedure of the block is blind to the controller. What
runs blind procedures one after the other, or chooses one by what it reads in the block, is blind; the lemmas follow the
model's procedures, from the transport write up to the host operations. -/

namespace Sys2Proof.Machine

/-- A procedure is blind when another controller at its start changes nothing but the controller at its end (R53). -/
def Blind (f : State → State) : Prop :=
  ∀ (s : State) (p : Panel), ∃ q, f { s with panel := p } = { f s with panel := q }

theorem Blind.id : Blind fun s => s := fun _ p => ⟨p, rfl⟩

theorem Blind.comp {f g : State → State} (hg : Blind g) (hf : Blind f) : Blind fun s => g (f s) := by
  intro s p
  obtain ⟨q, hq⟩ := hf s p
  obtain ⟨r, hr⟩ := hg (f s) q
  exact ⟨r, (congrArg g hq).trans hr⟩

/-- A procedure is blind when at each state it does what one blind procedure does there, whatever the controller holds. -/
theorem Blind.of_agrees {f : State → State}
    (h : ∀ s : State, ∃ g, Blind g ∧ ∀ p, f { s with panel := p } = g { s with panel := p }) : Blind f := by
  intro s p
  obtain ⟨g, hg, e⟩ := h s
  obtain ⟨q, hq⟩ := hg s p
  have here : f s = g s := e s.panel
  exact ⟨q, by rw [e p, hq, here]⟩

/-- Which blind procedure runs, or with which operands, may depend on all that the state holds but the controller. -/
theorem Blind.read {α : Type} {f : α → State → State} (r : State → α) (hf : ∀ a, Blind (f a))
    (hr : ∀ (s : State) (p : Panel), r { s with panel := p } = r s := by intros; rfl) : Blind fun s => f (r s) s :=
  Blind.of_agrees fun s => ⟨f (r s), hf (r s), fun p => by rw [hr s p]⟩

theorem Blind.ite {f g : State → State} (c : Prop) [Decidable c] (hf : Blind f) (hg : Blind g) :
    Blind fun s => if c then f s else g s := by
  by_cases h : c
  · simpa [h] using hf
  · simpa [h] using hg

/-! ## Writes -/

theorem State.txWrite_blind (a : Byte) (bs : List Byte) : Blind (State.txWrite a bs) := fun _ _ => ⟨_, rfl⟩

theorem State.raiseError_blind (e : ErrorKind) : Blind (State.raiseError e) := by
  cases e <;> exact fun _ p => ⟨p, rfl⟩

theorem State.emit_blind (bs : List Byte) : Blind (State.emit bs) := by
  have write : Blind fun s => s.txWrite s.address bs := .read State.address fun a => State.txWrite_blind a bs
  exact .read State.nextAnswer fun ok => .ite (ok = true) write ((State.raiseError_blind .transportError).comp write)

theorem State.emitCmdBurst_blind (b : CmdBurst) : Blind (State.emitCmdBurst b) :=
  .read (fun s => frameCmd s.cfg b) State.emit_blind

theorem State.emitDataBurst_blind (ds : List Byte) : Blind (State.emitDataBurst ds) :=
  .read (fun s => frameData s.cfg ds) State.emit_blind

/-! ## The cursor and the scroll window -/

theorem State.lineAt_blind (l : BitVec 3) : Blind (State.lineAt l) := fun _ p => ⟨p, rfl⟩

theorem State.columnAt_blind (c : BitVec 5) : Blind (State.columnAt c) := fun _ p => ⟨p, rfl⟩

theorem State.windowAt_blind (o : BitVec 3) : Blind (State.windowAt o) := fun _ p => ⟨p, rfl⟩

theorem State.position_blind (l : BitVec 3) (c : BitVec 4) : Blind (State.position l c) :=
  .read (fun s => posOps s.cfg s.lineOffset l (pixelColumn c s.columnOffset)) State.emitCmdBurst_blind

theorem State.setCursorBody_blind (l : BitVec 3) (c : BitVec 4) : Blind (State.setCursorBody l c) :=
  (State.position_blind l c).comp ((State.columnAt_blind _).comp (State.lineAt_blind l))

theorem State.setLineOffset_blind (o : BitVec 3) : Blind (State.setLineOffset o) :=
  have burst : Blind fun s => s.emitCmdBurst (startLineBurst s.cfg o) :=
    .read (fun s => startLineBurst s.cfg o) State.emitCmdBurst_blind
  burst.comp (State.windowAt_blind o)

theorem State.scrollOne_blind : Blind State.scrollOne :=
  .read (fun s => s.lineOffset + 1) State.setLineOffset_blind

/-! ## Clearing -/

theorem State.sweep_blind (n : Nat) : Blind (State.sweep n) := by
  induction n with
  | zero => exact .id
  | succ n ih => exact ih.comp (.read (fun s => List.replicate (sweepBytes s.chip) 0) State.emitDataBurst_blind)

theorem State.clearLineBody_blind (row : BitVec 3) : Blind (State.clearLineBody row) := by
  have start : Blind fun s => s.emitCmdBurst (posOps s.cfg s.lineOffset row (sweepStart s.cfg s.columnOffset)) :=
    .read (fun s => posOps s.cfg s.lineOffset row (sweepStart s.cfg s.columnOffset)) State.emitCmdBurst_blind
  have sweeps : Blind fun s => s.sweep (sweepBursts s.chip) := .read (fun s => sweepBursts s.chip) State.sweep_blind
  exact (State.setCursorBody_blind row 0).comp (sweeps.comp start)

theorem State.clearRows_blind (rows : List (BitVec 3)) : Blind (State.clearRows rows) := by
  induction rows with
  | nil => exact .id
  | cons r rows ih => exact ih.comp (State.clearLineBody_blind r)

theorem State.clearBody_blind : Blind State.clearBody :=
  (State.setCursorBody_blind 0 0).comp ((State.setLineOffset_blind 0).comp (State.clearRows_blind _))

/-! ## The line advance and PRINT_CHAR -/

theorem State.advanceLine_blind (forced : Bool) : Blind (State.advanceLine forced) := by
  have down : Blind fun s => s.lineAt (s.line + 1) := .read (fun s => s.line + 1) State.lineAt_blind
  refine .of_agrees fun s => ?_
  cases s.printMode with
  | overwriteSameLine => exact ⟨_, .ite (forced = true) down .id, fun p => by simp [State.advanceLine]⟩
  | overwriteNextLine => exact ⟨_, down, fun p => by simp [State.advanceLine]⟩
  | scrollLine => exact ⟨_, .ite (s.line = 7) State.scrollOne_blind down, fun p => by simp [State.advanceLine]⟩

theorem State.nextLine_blind (forced : Bool) : Blind (State.nextLine forced) := by
  have place : Blind fun s => (s.columnAt 0).position s.line 0 :=
    .read State.line fun l => (State.position_blind l 0).comp (State.columnAt_blind 0)
  have clear : Blind fun s => match s.printMode with
      | .scrollLine => s.clearLineBody s.line
      | .overwriteNextLine => s
      | .overwriteSameLine => s := by
    refine .of_agrees fun s => ?_
    cases s.printMode with
    | overwriteSameLine => exact ⟨_, .id, fun p => by simp⟩
    | overwriteNextLine => exact ⟨_, .id, fun p => by simp⟩
    | scrollLine => exact ⟨_, .read State.line State.clearLineBody_blind, fun p => by simp⟩
  exact clear.comp (place.comp (State.advanceLine_blind forced))

theorem State.renderGlyph_blind (code : Byte) : Blind (State.renderGlyph code) :=
  .read (fun s => serialize s.inverseFont (glyphOf s.cfg code)) State.emitDataBurst_blind

theorem State.printGlyph_blind (code : Byte) : Blind (State.printGlyph code) := by
  have wrap : Blind fun s => if maxTextColumns ≤ s.column.toNat then s.nextLine false else s :=
    .read State.column fun c => .ite (maxTextColumns ≤ c.toNat) (State.nextLine_blind false) .id
  have right : Blind fun s => s.columnAt (s.column + 1) := .read (fun s => s.column + 1) State.columnAt_blind
  exact right.comp ((State.renderGlyph_blind code).comp wrap)

theorem State.printCharBody_blind (code : Byte) : Blind (State.printCharBody code) := by
  unfold State.printCharBody
  cases charClass code with
  | newline => exact State.nextLine_blind true
  | printable => exact State.printGlyph_blind code
  | ignored => exact .id

/-! ## INIT -/

theorem State.emitPowerOnBurst_blind (b : PowerOnBurst) : Blind (State.emitPowerOnBurst b) := by
  intro s p
  obtain ⟨_, h⟩ := State.emitCmdBurst_blind b.toCmd s p
  exact ⟨_, by rw [State.emitPowerOnBurst, h]; rfl⟩

theorem State.emitPowerOn_blind (bs : List PowerOnBurst) : Blind (State.emitPowerOn bs) := by
  induction bs with
  | nil => exact .id
  | cons b bs ih => exact ih.comp (State.emitPowerOnBurst_blind b)

theorem State.initConnected_blind (chip : Chip) (sel : Byte) : Blind (State.initConnected chip sel) := by
  have regs : Blind (State.initRegs chip sel) := fun _ p => ⟨p, rfl⟩
  have powerOn : Blind fun s => s.emitPowerOn (powerOnBursts s.cfg chip) :=
    .read (fun s => powerOnBursts s.cfg chip) State.emitPowerOn_blind
  exact State.clearBody_blind.comp ((State.setCursorBody_blind 0 0).comp (powerOn.comp regs))

/-- Probing in order and going on by which address answered (R151): of the probes, the block learns only their answers. -/
theorem probeFirst_blind {k : Option Byte → State → State} (hk : ∀ o, Blind (k o)) (as : List Byte) :
    Blind fun s => k (probeFirst as s).1 (probeFirst as s).2 := by
  induction as with
  | nil => exact hk none
  | cons a rest ih =>
    have probed : Blind (State.probe a) := State.txWrite_blind a []
    refine .of_agrees fun s => ?_
    have same (p : Panel) : ({ s with panel := p } : State).nextAnswer = s.nextAnswer := rfl
    cases ok : s.nextAnswer with
    | true => exact ⟨_, (hk (some a)).comp probed, fun p => by simp [probeFirst, same, ok]⟩
    | false => exact ⟨_, ih.comp probed, fun p => by simp [probeFirst, same, ok]⟩

/-- INIT once its probes are made: by the address that answered, if one did (R151, R182). -/
def State.afterProbes (chip : Chip) : Option Byte → State → State
  | some sel, s => s.initConnected chip sel
  | none, s => s.raiseError .deviceNotFound

theorem State.afterProbes_blind (chip : Chip) (o : Option Byte) : Blind (State.afterProbes chip o) := by
  cases o with
  | none => exact State.raiseError_blind .deviceNotFound
  | some sel => exact State.initConnected_blind chip sel

theorem State.initBody_allowed {s : State} {req : Byte} (chip : Chip) (h : addressAllowed s.cfg req = true) :
    s.initBody chip req =
      State.afterProbes chip (probeFirst (probeCandidates s.cfg req) { s with connected := false }).1
        (probeFirst (probeCandidates s.cfg req) { s with connected := false }).2 := by
  simp only [State.initBody, h, if_true]
  obtain ⟨_ | sel, t⟩ := probeFirst (probeCandidates s.cfg req) { s with connected := false }
  · simp only [State.afterProbes]
  · simp only [State.afterProbes]

theorem State.initBody_blind (chip : Chip) (req : Byte) : Blind (State.initBody chip req) := by
  refine .of_agrees fun s => ?_
  cases h : addressAllowed s.cfg req with
  | false =>
    have invalid : Blind fun s => { s with connected := false, status := .invalidAddress } := fun _ p => ⟨p, rfl⟩
    exact ⟨_, invalid, fun p => State.initBody_invalid h⟩
  | true =>
    have probes := probeFirst_blind (State.afterProbes_blind chip) (probeCandidates s.cfg req)
    have disconnect : Blind fun s => { s with connected := false } := fun _ p => ⟨p, rfl⟩
    exact ⟨_, probes.comp disconnect, fun p => State.initBody_allowed chip h⟩

/-! ## The host operations -/

theorem State.gated_blind {f : State → State} (hf : Blind f) : Blind (State.gated f) :=
  .read State.connected fun c => .ite (c = true) hf .id

theorem State.emitFlip_blind (flipped : Bool) : Blind (State.emitFlip flipped) := by
  refine .of_agrees fun s => ?_
  have one (front : List Byte) (last : Byte) := State.emitCmdBurst_blind { front := front, last := last }
  cases hf : s.cfg.flipFraming with
  | oneBurst =>
    exact ⟨_, one [(flipOpcodes s.cfg flipped).1] (flipOpcodes s.cfg flipped).2, fun p => by simp [State.emitFlip, hf]⟩
  | twoBursts =>
    exact ⟨_, (one [] (flipOpcodes s.cfg flipped).2).comp (one [] (flipOpcodes s.cfg flipped).1),
      fun p => by simp [State.emitFlip, hf]⟩

/-- An operation is blind when it always completes, and its next state is that of a blind procedure. -/
def BlindOp (op : State → Host.Outcome State Fault Refusal) : Prop := ∃ f, Blind f ∧ ∀ s, op s = .next (f s)

theorem BlindOp.of_gated {op : State → Host.Outcome State Fault Refusal} {f : State → State} (hf : Blind f)
    (e : ∀ s, op s = .next (s.gated f)) : BlindOp op := ⟨_, State.gated_blind hf, e⟩

theorem BlindOp.next {op : State → Host.Outcome State Fault Refusal} (h : BlindOp op) {s t : State} (ht : op s = .next t)
    (p : Panel) : ∃ q, op { s with panel := p } = .next { t with panel := q } := by
  obtain ⟨f, hf, e⟩ := h
  obtain rfl : f s = t := by simpa [e] using ht
  obtain ⟨q, hq⟩ := hf s p
  exact ⟨q, by rw [e, hq]⟩

theorem execClearLine_blind (row : Byte) : BlindOp (execClearLine row) := by
  cases h : lineOperand row with
  | some r => exact .of_gated (State.clearLineBody_blind r) fun s => by simp [execClearLine, h]
  | none => exact .of_gated .id fun s => by simp [execClearLine, h]

theorem execSetCursor_blind (line column : Byte) : BlindOp (execSetCursor line column) := by
  rcases hl : lineOperand line with _ | l
  · exact .of_gated .id fun s => by cases hc : columnOperand column <;> simp [execSetCursor, hl, hc]
  · rcases hc : columnOperand column with _ | c
    · exact .of_gated .id fun s => by simp [execSetCursor, hl, hc]
    · exact .of_gated (State.setCursorBody_blind l c) fun s => by simp [execSetCursor, hl, hc]

theorem execSetInverse_blind (flag : Byte) : BlindOp (execSetInverse flag) := by
  have send (opcode : Config → Byte) : Blind fun s => s.emitCmdBurst { front := [], last := opcode s.cfg } :=
    .read (fun s => { front := [], last := opcode s.cfg }) State.emitCmdBurst_blind
  exact .of_gated (.ite (boolOperand flag = true) (send Config.opModeInverse) (send Config.opModeNormal)) fun _ => rfl

theorem execSetInverseFont_blind (flag : Byte) : BlindOp (execSetInverseFont flag) := by
  have set : Blind fun s => { s with inverseFont := boolOperand flag } := fun _ p => ⟨p, rfl⟩
  exact .of_gated set fun _ => rfl

theorem execSetPrintMode_blind (mode : Byte) : BlindOp (execSetPrintMode mode) := by
  cases h : printModeOperand mode with
  | some m =>
    have set : Blind fun s => { s with printMode := m } := fun _ p => ⟨p, rfl⟩
    exact .of_gated set fun s => by simp [execSetPrintMode, h]
  | none => exact .of_gated .id fun s => by simp [execSetPrintMode, h]

theorem execSetDisplayColumnOffset_blind (n : Byte) : BlindOp (execSetDisplayColumnOffset n) := by
  cases h : offsetOperand n with
  | some o =>
    have set : Blind fun s => { s with columnOffset := if s.chip = .ssd1306 then 0 else o } := fun _ p => ⟨p, rfl⟩
    exact .of_gated set fun s => by cases hc : s.chip <;> simp [execSetDisplayColumnOffset, State.gated, h, hc]
  | none => exact .of_gated .id fun s => by simp [execSetDisplayColumnOffset, h]

/-- R53 for the whole of the command port: every host operation is blind. -/
theorem exec_blind {i : Instr} (hi : i.isHost = true) : BlindOp (exec i) := by
  cases i with
  | init chip req => exact ⟨_, State.initBody_blind chip req, fun _ => rfl⟩
  | printChar code => exact .of_gated (State.printCharBody_blind code) fun _ => rfl
  | clear => exact .of_gated State.clearBody_blind fun _ => rfl
  | clearLine row => exact execClearLine_blind row
  | clearCurrentLine => exact .of_gated (.read State.line State.clearLineBody_blind) fun _ => rfl
  | setCursor line column => exact execSetCursor_blind line column
  | home => exact .of_gated (State.setCursorBody_blind 0 0) fun _ => rfl
  | setInverse flag => exact execSetInverse_blind flag
  | flip flag => exact .of_gated (State.clearBody_blind.comp (State.emitFlip_blind (boolOperand flag))) fun _ => rfl
  | setInverseFont flag => exact execSetInverseFont_blind flag
  | setPrintMode mode => exact execSetPrintMode_blind mode
  | setDisplayColumnOffset n => exact execSetDisplayColumnOffset_blind n
  | _ => simp [Instr.isHost] at hi

/-- Settles O19: each host operation is built from writes and register assignments that read no field of the controller. -/
theorem controllerIsNeverReadBack : Obligations.ControllerIsNeverReadBack :=
  fun _ _ _ p hi ht => (exec_blind hi).next ht p

end Sys2Proof.Machine
end

section
/-! PROOF. The framing of the two kinds of burst (30_encoding.md R78, R79): one control byte before each opcode, by induction
over the opcodes before the last; one control byte before all data. -/

namespace Sys2Proof.Machine

/-! ## What a burst writes -/

theorem State.emitCmdBurst_sent (b : CmdBurst) (s : State) : Sent s (s.emitCmdBurst b) [frameCmd s.cfg b] :=
  State.emit_sent _ s

theorem State.emitDataBurst_sent (ds : List Byte) (s : State) : Sent s (s.emitDataBurst ds) [s.cfg.ctrlData :: ds] :=
  State.emit_sent _ s

/-! ## The bytes of a command burst -/

/-- The framing of the last opcode alone. -/
@[simp] theorem frameCmd_last (c : Config) (last : Byte) : frameCmd c { front := [], last } = [c.ctrlLast, last] := rfl

/-- The framing of an opcode that others follow. -/
@[simp] theorem frameCmd_more (c : Config) (o : Byte) (front : List Byte) (last : Byte) :
    frameCmd c { front := o :: front, last } = c.ctrlMore :: o :: frameCmd c { front, last } := rfl

@[simp] theorem CmdBurst.opcodes_last (last : Byte) : CmdBurst.opcodes { front := [], last } = [last] := rfl

@[simp] theorem CmdBurst.opcodes_more (o : Byte) (front : List Byte) (last : Byte) :
    CmdBurst.opcodes { front := o :: front, last } = o :: CmdBurst.opcodes { front, last } := rfl

theorem CmdBurst.opcodes_length_pos (b : CmdBurst) : 0 < b.opcodes.length := by simp [CmdBurst.opcodes]

theorem frameCmd_length (c : Config) (b : CmdBurst) : (frameCmd c b).length = 2 * b.opcodes.length := by
  obtain ⟨front, last⟩ := b
  induction front with
  | nil => rfl
  | cons o front ih =>
    simp only [frameCmd_more, CmdBurst.opcodes_more, List.length_cons, ih]
    omega

/-- Opcode `k` stands at byte `2k + 1`, after the control byte that says whether another opcode follows. -/
theorem frameCmd_getElem? (c : Config) (b : CmdBurst) {k : Nat} (hk : k < b.opcodes.length) :
    (frameCmd c b)[2 * k]? = some (if k + 1 < b.opcodes.length then c.ctrlMore else c.ctrlLast) ∧
      (frameCmd c b)[2 * k + 1]? = b.opcodes[k]? := by
  obtain ⟨front, last⟩ := b
  induction front generalizing k with
  | nil =>
    obtain rfl : k = 0 := by simpa using hk
    exact ⟨rfl, rfl⟩
  | cons o front ih =>
    cases k with
    | zero => simp [CmdBurst.opcodes_length_pos]
    | succ k => simpa [Nat.mul_succ] using ih (by simpa using hk)

/-! ## The obligations -/

/-- Settles O20: the framed burst, whose bytes are given by index. -/
theorem commandBurstFraming : Obligations.CommandBurstFraming := fun s b =>
  ⟨frameCmd s.cfg b, State.emitCmdBurst_sent b s, State.emitCmdBurst_core b s, frameCmd_length s.cfg b,
    fun _ => frameCmd_getElem? s.cfg b⟩

/-- Settles O21. -/
theorem dataBurstFraming : Obligations.DataBurstFraming := fun s d ds =>
  ⟨State.emitDataBurst_sent (d :: ds) s, State.emitDataBurst_core (d :: ds) s, List.length_cons⟩

end Sys2Proof.Machine
end

section
/-! PROOF. The positioning burst and scroll-one-line (41_command_encoder.md R131 to R135), from what each procedure sends and
which registers it keeps. -/

namespace Sys2Proof.Machine

/-- The burst of scroll-one-line carries the advanced window, not the old one (R135). -/
theorem State.scrollOne_sent (s : State) :
    Sent s s.scrollOne [wireStartLine s.cfg ((s.lineOffset.toNat + 1) % 8)] := by
  have advanced : (s.lineOffset + 1).toNat = (s.lineOffset.toNat + 1) % 8 := BitVec.toNat_add s.lineOffset 1
  rw [← advanced]
  exact State.setLineOffset_sent (s.lineOffset + 1) s

/-- Settles O22: the six bytes of the framed positioning opcodes, which change no register but `txerr`. -/
theorem positionBurst : Obligations.PositionBurst := fun s l c =>
  ⟨State.position_core l c s, State.position_sent l c s⟩

/-- Settles O23: the window's three-bit increment is the increment modulo `ROWS`, in the register and in the burst. -/
theorem scrollOneLine : Obligations.ScrollOneLine := by
  intro s
  refine ⟨?_, State.scrollOne_sent s⟩
  rw [← window_succ_eq]
  exact State.scrollOne_core s

end Sys2Proof.Machine
end

section
/-! PROOF. SET_INVERSE (42_facade.md R165): its word, the gate it stands behind (R186), and the one mode opcode it sends. -/

namespace Sys2Proof.Machine

/-! ## The gate -/

theorem State.gated_connected {s : State} (h : s.connected = true) (body : State → State) : s.gated body = body s := if_pos h

theorem State.gated_disconnected {s : State} (h : s.connected = false) (body : State → State) : s.gated body = s := by
  simp [State.gated, h]

/-! ## SET_INVERSE -/

theorem decodeHost_setInverse (f : Byte) : decodeHost (hostWord 0x08 f 0x00) = .ok (.setInverse f) := by
  simp [decodeHost, decodeOneOperand]

theorem exec_setInverse_disconnected {s : State} (h : s.connected = false) (f : Byte) :
    exec (.setInverse f) s = .next s :=
  congrArg Host.Outcome.next (State.gated_disconnected h _)

theorem exec_setInverse_connected {s : State} (h : s.connected = true) (f : Byte) :
    exec (.setInverse f) s =
      .next (s.emitCmdBurst { front := [], last := if f.toNat = 0 then s.cfg.opModeNormal else s.cfg.opModeInverse }) := by
  refine congrArg Host.Outcome.next ((State.gated_connected h _).trans ?_)
  by_cases zero : f.toNat = 0
  · simp [boolOperand_eq, zero]
  · simp [boolOperand_eq, zero]

/-- Settles O38: whatever the flag, the operation is a command burst of one opcode, and a burst keeps every register but
`txerr`. -/
theorem setInverseResult : Obligations.SetInverseResult := fun s f =>
  ⟨decodeHost_setInverse f, fun h => exec_setInverse_disconnected h f,
    fun h => ⟨_, exec_setInverse_connected h f, State.emitCmdBurst_core _ s, State.emitCmdBurst_sent _ s⟩⟩

end Sys2Proof.Machine
end

section
/-! PROOF. The gate (60_exceptions.md R186): every host operation but INIT is a body behind `State.gated`, so a disconnected
block makes no step of it. -/

namespace Sys2Proof.Machine

/-- The gate stands outermost: operands are examined behind it (R75), never before. -/
theorem exec_gated {i : Instr} (hi : i.isHost = true) (notInit : ∀ c r, i ≠ .init c r) :
    ∃ body, ∀ s, exec i s = .next (s.gated body) := by
  cases i with
  | init chip req => exact absurd rfl (notInit chip req)
  | printChar code => exact ⟨_, fun _ => rfl⟩
  | clear => exact ⟨_, fun _ => rfl⟩
  | clearLine row => exact ⟨_, fun _ => rfl⟩
  | clearCurrentLine => exact ⟨_, fun _ => rfl⟩
  | setCursor line column => exact ⟨_, fun _ => rfl⟩
  | home => exact ⟨_, fun _ => rfl⟩
  | setInverse flag => exact ⟨_, fun _ => rfl⟩
  | flip flag => exact ⟨_, fun _ => rfl⟩
  | setInverseFont flag => exact ⟨_, fun _ => rfl⟩
  | setPrintMode mode => exact ⟨_, fun _ => rfl⟩
  | setDisplayColumnOffset n => exact ⟨_, fun _ => rfl⟩
  | _ => simp [Instr.isHost] at hi

theorem exec_disconnected {i : Instr} {s : State} (hi : i.isHost = true) (notInit : ∀ c r, i ≠ .init c r)
    (h : s.connected = false) : exec i s = .next s := by
  obtain ⟨body, gate⟩ := exec_gated hi notInit
  rw [gate, State.gated_disconnected h]

/-- Settles O16: a gated body does not run while `connected` is false. -/
theorem disconnectedBlockDoesNothing : Obligations.DisconnectedBlockDoesNothing :=
  fun _ _ hi notInit h => exec_disconnected hi notInit h

end Sys2Proof.Machine
end

section
/-! PROOF. The encoder and the decoder are inverse to each other (30_encoding.md R70 to R93): host words by their three fields,
wire bytes by their class and the argument bits that the class leaves open. -/

namespace Sys2Proof

/-! ## Host words -/

/-- A host word is given by its three fields (R70). -/
theorem exists_hostWord (w : HostWord) : ∃ op a b, w = hostWord op a b := ⟨_, _, _, (hostWord_fields w).symm⟩

theorem decodeNoOperand_ok {op a b : Byte} {i j : Instr} : decodeNoOperand op a b i = .ok j ↔ (a = 0 ∧ b = 0) ∧ i = j := by
  unfold decodeNoOperand; split <;> simp_all

theorem decodeOneOperand_ok {op a b : Byte} {i : Byte → Instr} {j : Instr} :
    decodeOneOperand op a b i = .ok j ↔ b = 0 ∧ i a = j := by
  unfold decodeOneOperand; split <;> simp_all

theorem decodeInit_ok {a b : Byte} {j : Instr} : decodeInit a b = .ok j ↔ ∃ chip, a = encodeChip chip ∧ .init chip b = j := by
  unfold decodeInit
  constructor
  · intro h
    split at h
    · exact ⟨.sh1106, ‹_›, by simpa using h⟩
    · split at h
      · exact ⟨.ssd1306, ‹_›, by simpa using h⟩
      · cases h
  · rintro ⟨chip, rfl, rfl⟩
    cases chip <;> rfl

/-- A host operation's word decodes to it. -/
theorem decode_encode_host (c : Config) (phase : WirePhase) {i : Instr} (h : i.isHost = true) :
    decode c phase (encode c i) = .ok i := by
  cases i with
  | init chip req => simpa [encode, decode, decodeHost] using decodeInit_ok.2 ⟨chip, rfl, rfl⟩
  | printChar | clearLine | setInverse | flip | setInverseFont | setPrintMode | setDisplayColumnOffset =>
    simp [encode, decode, decodeHost, decodeOneOperand_ok]
  | clear | clearCurrentLine | home => simp [encode, decode, decodeHost, decodeNoOperand_ok]
  | setCursor line column => simp [encode, decode, decodeHost]
  | _ => simp [Instr.isHost] at h

/-- What a host word decodes to is a host operation whose word it is: row by row, in the decoder's order. -/
theorem encode_decodeHost (c : Config) {w : HostWord} {i : Instr} (h : decodeHost w = .ok i) :
    i.isHost = true ∧ i.wf = true ∧ encode c i = .host w := by
  obtain ⟨op, a, b, rfl⟩ := exists_hostWord w
  have none {j : Instr} (h : decodeNoOperand op a b j = .ok i) : a = 0 ∧ b = 0 ∧ j = i := by
    obtain ⟨⟨ha, hb⟩, e⟩ := decodeNoOperand_ok.1 h
    exact ⟨ha, hb, e⟩
  have one {f : Byte → Instr} : decodeOneOperand op a b f = .ok i → b = 0 ∧ f a = i := decodeOneOperand_ok.1
  simp only [decodeHost, hostOp_hostWord, hostA_hostWord, hostB_hostWord] at h
  obtain ⟨rfl, h⟩ | ⟨-, h⟩ := ite_eq_iff.1 h
  · obtain ⟨chip, rfl, rfl⟩ := decodeInit_ok.1 h
    exact ⟨rfl, rfl, rfl⟩
  obtain ⟨rfl, h⟩ | ⟨-, h⟩ := ite_eq_iff.1 h
  · obtain ⟨rfl, rfl⟩ := one h; exact ⟨rfl, rfl, rfl⟩
  obtain ⟨rfl, h⟩ | ⟨-, h⟩ := ite_eq_iff.1 h
  · obtain ⟨rfl, rfl, rfl⟩ := none h; exact ⟨rfl, rfl, rfl⟩
  obtain ⟨rfl, h⟩ | ⟨-, h⟩ := ite_eq_iff.1 h
  · obtain ⟨rfl, rfl⟩ := one h; exact ⟨rfl, rfl, rfl⟩
  obtain ⟨rfl, h⟩ | ⟨-, h⟩ := ite_eq_iff.1 h
  · obtain ⟨rfl, rfl, rfl⟩ := none h; exact ⟨rfl, rfl, rfl⟩
  obtain ⟨rfl, h⟩ | ⟨-, h⟩ := ite_eq_iff.1 h
  · cases h; exact ⟨rfl, rfl, rfl⟩
  obtain ⟨rfl, h⟩ | ⟨-, h⟩ := ite_eq_iff.1 h
  · obtain ⟨rfl, rfl, rfl⟩ := none h; exact ⟨rfl, rfl, rfl⟩
  obtain ⟨rfl, h⟩ | ⟨-, h⟩ := ite_eq_iff.1 h
  · obtain ⟨rfl, rfl⟩ := one h; exact ⟨rfl, rfl, rfl⟩
  obtain ⟨rfl, h⟩ | ⟨-, h⟩ := ite_eq_iff.1 h
  · obtain ⟨rfl, rfl⟩ := one h; exact ⟨rfl, rfl, rfl⟩
  obtain ⟨rfl, h⟩ | ⟨-, h⟩ := ite_eq_iff.1 h
  · obtain ⟨rfl, rfl⟩ := one h; exact ⟨rfl, rfl, rfl⟩
  obtain ⟨rfl, h⟩ | ⟨-, h⟩ := ite_eq_iff.1 h
  · obtain ⟨rfl, rfl⟩ := one h; exact ⟨rfl, rfl, rfl⟩
  obtain ⟨rfl, h⟩ | ⟨-, h⟩ := ite_eq_iff.1 h
  · obtain ⟨rfl, rfl⟩ := one h; exact ⟨rfl, rfl, rfl⟩
  · cases h

/-! ## Control bytes -/

theorem decode_encode_control {c : Config} (hv : c.Valid) {i : Instr} (h : i.isControl = true) :
    decode c .control (encode c i) = .ok i := by
  obtain ⟨⟨h1, h2, h3⟩, -⟩ := hv
  cases i with
  | ctrlMore | ctrlLast | ctrlData => simp [encode, decode, decodeWire, decodeControl, h1.symm, h2.symm, h3.symm]
  | _ => simp [Instr.isControl] at h

theorem encode_decodeControl {c : Config} {b : Byte} {i : Instr} (h : decodeControl c b = .ok i) :
    i.isHost = false ∧ i.isControl = true ∧ i.wf = true ∧ encode c i = .wire b := by
  unfold decodeControl at h
  split at h
  · cases h; subst_vars; exact ⟨rfl, rfl, rfl, rfl⟩
  · split at h
    · cases h; subst_vars; exact ⟨rfl, rfl, rfl, rfl⟩
    · split at h
      · cases h; subst_vars; exact ⟨rfl, rfl, rfl, rfl⟩
      · cases h

/-! ## Opcodes -/

/-- An opcode's byte decodes to it in opcode position, under disjoint classes (log entry 8). -/
theorem decodeOpcode_encode {c : Config} (hv : c.Valid) (hd : c.OpcodesDisjoint) {i : Instr} {b : Byte}
    (hh : i.isHost = false) (hc : i.isControl = false) (hw : i.wf = true) (e : encode c i = .wire b) :
    decodeOpcode c b = .ok i := by
  obtain ⟨-, -, -, -, m0, m1, s0, s1, c0, c1⟩ := decodeOpcode_of_class hd b
  cases i with
  | pageAddress page =>
    cases e
    rw [opcodeByte, Machine.byte_of_zeroExtend, Machine.decode_pageAddress hv hd _ page.isLt, BitVec.ofNat_toNat,
      BitVec.setWidth_eq]
  | columnAddressLow nibble =>
    cases e
    rw [opcodeByte, Machine.byte_of_zeroExtend, Machine.decode_columnLow hv hd _ nibble.isLt, BitVec.ofNat_toNat,
      BitVec.setWidth_eq]
  | columnAddressHigh nibble =>
    cases e
    have hn : nibble.toNat < 8 := by simpa [Instr.wf] using hw
    rw [opcodeByte, Machine.byte_of_zeroExtend, Machine.decode_columnHigh hv hd _ hn, BitVec.ofNat_toNat,
      BitVec.setWidth_eq]
  | startLine value =>
    cases e
    have hm : value.toNat % 8 = 0 := by simpa [Instr.wf] using hw
    have hr : value.toNat = value.toNat / 8 * 8 := by omega
    have hn : value.toNat / 8 < 8 := by have := value.isLt; omega
    rw [opcodeByte, Machine.byte_of_zeroExtend, hr, Machine.decode_startLine hv hd _ hn, ← hr, BitVec.ofNat_toNat,
      BitVec.setWidth_eq]
  | modeNormal => cases e; exact m0 rfl
  | modeInverse => cases e; exact m1 rfl
  | segmentRemapUnflipped => cases e; exact s0 rfl
  | segmentRemapFlipped => cases e; exact s1 rfl
  | scanDirectionUnflipped => cases e; exact c0 rfl
  | scanDirectionFlipped => cases e; exact c1 rfl
  | ctrlMore | ctrlLast | ctrlData => simp [Instr.isControl] at hc
  | _ => simp [Instr.isHost] at hh

/-- A byte is its class base and its low bits, where the mask leaves open no bit above those. -/
theorem base_or_argument {b m base : Byte} (k : Nat) (hm : ∀ i, i < 8 → m.getLsbD i = true ∨ i < k) (h : b &&& m = base) :
    opcodeByte base ((b.extractLsb' 0 k).zeroExtend 8) = b := by
  apply BitVec.eq_of_getLsbD_eq
  intro i hi
  simp only [opcodeByte, ← h, BitVec.getLsbD_or, BitVec.getLsbD_and, BitVec.zeroExtend_eq_setWidth, BitVec.getLsbD_setWidth,
    BitVec.getLsbD_extractLsb', Nat.zero_add]
  rcases hm i hi with hi' | hi' <;> cases b.getLsbD i <;> simp [hi, hi']

/-- A bit that the mask fixes and the base leaves zero is zero in the argument. -/
theorem argument_bit {b m base z : Byte} (k i : Nat) (h : b &&& m = base) (hz : base &&& z = 0)
    (hm : m.getLsbD i = true) (hi : z.getLsbD i = true) : (b.extractLsb' 0 k).getLsbD i = false := by
  have hb := Machine.getLsbD_of_and_eq_zero hz i hi
  simp only [← h, BitVec.getLsbD_and, hm, Bool.and_true] at hb
  simp [hb]

theorem nibble_lt_eight : ∀ n : BitVec 4, n.getLsbD 3 = false → n.toNat < 8 := by decide

theorem startLine_mod_eight : ∀ v : BitVec 6, v.getLsbD 0 = false → v.getLsbD 1 = false → v.getLsbD 2 = false →
    v.toNat % 8 = 0 := by decide

/-- What a byte in opcode position decodes to is a well-formed opcode whose byte it is. -/
theorem encode_decodeOpcode {c : Config} (hv : c.Valid) {b : Byte} {i : Instr} (h : decodeOpcode c b = .ok i) :
    i.wf = true ∧ encode c i = .wire b := by
  obtain ⟨-, ⟨-, -, hz2, hz3⟩, -⟩ := hv
  unfold decodeOpcode at h
  split at h
  case isTrue e => cases h; exact ⟨rfl, congrArg Encoded.wire (base_or_argument 3 (by decide) e)⟩
  split at h
  case isTrue e => cases h; exact ⟨rfl, congrArg Encoded.wire (base_or_argument 4 (by decide) e)⟩
  split at h
  case isTrue e =>
    cases h
    have bit := argument_bit 4 3 e hz2 (by decide) (by decide)
    exact ⟨by simpa [Instr.wf] using nibble_lt_eight _ bit, congrArg Encoded.wire (base_or_argument 4 (by decide) e)⟩
  split at h
  case isTrue e =>
    cases h
    have bit (i : Nat) := argument_bit 6 i e hz3
    have low := startLine_mod_eight _ (bit 0 (by decide) (by decide)) (bit 1 (by decide) (by decide))
      (bit 2 (by decide) (by decide))
    exact ⟨by simpa [Instr.wf] using low, congrArg Encoded.wire (base_or_argument 6 (by decide) e)⟩
  case isFalse =>
    repeat' split at h
    all_goals cases h
    all_goals exact ⟨rfl, congrArg Encoded.wire (Eq.symm ‹b = _›)⟩

/-! ## The obligations -/

theorem encode_wire {c : Config} {i : Instr} (h : i.isHost = false) : ∃ b, encode c i = .wire b := by
  cases i with
  | init | printChar | clear | clearLine | clearCurrentLine | setCursor | home | setInverse | flip | setInverseFont
  | setPrintMode | setDisplayColumnOffset => simp [Instr.isHost] at h
  | _ => exact ⟨_, rfl⟩

/-- Settles O1: by the three places an encoding may stand, the command port, control position and opcode position. -/
theorem decodeInvertsEncode : Obligations.DecodeInvertsEncode := by
  intro c hv hd i phase hw hfit
  cases hh : i.isHost with
  | true => exact decode_encode_host c phase hh
  | false =>
    rcases hfit with host | ⟨hc, rfl⟩ | ⟨hc, position⟩
    · simp [hh] at host
    · exact decode_encode_control hv hc
    · obtain ⟨b, e⟩ := encode_wire (c := c) hh
      have ok := decodeOpcode_encode hv hd hh hc hw e
      rcases position with rfl | rfl <;> simpa [e, decode, decodeWire] using ok

/-- Settles O2: a host word by its fields, a wire byte by its class and its argument bits. -/
theorem encodeInvertsDecode : Obligations.EncodeInvertsDecode := by
  intro c hv
  refine ⟨fun w i h => encode_decodeHost c h, fun phase b i h => ?_⟩
  have opcode (h : decodeOpcode c b = .ok i) : i.isHost = false ∧ i.isControl = false ∧ i.wf = true ∧ encode c i = .wire b :=
    ⟨(Machine.decodeOpcode_kind h).1, (Machine.decodeOpcode_kind h).2, encode_decodeOpcode hv h⟩
  cases phase with
  | control =>
    obtain ⟨hh, hc, hw, he⟩ := encode_decodeControl (show decodeControl c b = .ok i from h)
    exact ⟨hh, hw, .inr (.inl ⟨hc, rfl⟩), he⟩
  | opcodeMore =>
    obtain ⟨hh, hc, hw, he⟩ := opcode h
    exact ⟨hh, hw, .inr (.inr ⟨hc, .inl rfl⟩), he⟩
  | opcodeLast =>
    obtain ⟨hh, hc, hw, he⟩ := opcode h
    exact ⟨hh, hw, .inr (.inr ⟨hc, .inr rfl⟩), he⟩
  | data => cases h
  | closed => cases h

theorem decodeNoOperand_error {op a b : Byte} {i : Instr} :
    (∃ e, decodeNoOperand op a b i = .error e) ↔ a.toNat ≠ 0 ∨ b.toNat ≠ 0 := by
  unfold decodeNoOperand
  split <;> simp_all [BitVec.toNat_eq]
  omega

theorem decodeOneOperand_error {op a b : Byte} {i : Byte → Instr} :
    (∃ e, decodeOneOperand op a b i = .error e) ↔ b.toNat ≠ 0 := by
  unfold decodeOneOperand
  split <;> simp_all [BitVec.toNat_eq]

theorem decodeInit_error {a b : Byte} : (∃ e, decodeInit a b = .error e) ↔ 2 ≤ a.toNat := by
  unfold decodeInit
  repeat' split
  all_goals simp_all [BitVec.toNat_eq]
  omega

theorem exists_ite_error {p : Prop} [Decidable p] {x y : Except DecodeError Instr} :
    (∃ e, (if p then x else y) = .error e) ↔ (p ∧ ∃ e, x = .error e) ∨ (¬ p ∧ ∃ e, y = .error e) := by
  split <;> simp [*]

/-- Settles O3: by the operation code, each row of the table having its own form of operands. -/
theorem illegalWordsAreThoseOfTheEncodingRule : Obligations.IllegalWordsAreThoseOfTheEncodingRule := by
  intro w
  obtain ⟨op, a, b, rfl⟩ := exists_hostWord w
  have ha := a.isLt
  have hb := b.isLt
  have e0 : (op.toNat * 65536 + a.toNat * 256 + b.toNat) / 65536 = op.toNat := by omega
  have e1 : (op.toNat * 65536 + a.toNat * 256 + b.toNat) / 256 % 256 = a.toNat := by omega
  have e2 : (op.toNat * 65536 + a.toNat * 256 + b.toNat) % 256 = b.toNat := by omega
  simp only [hostWord_toNat, e0, e1, e2, decodeHost, hostOp_hostWord, hostA_hostWord, hostB_hostWord, exists_ite_error,
    decodeInit_error, decodeOneOperand_error, decodeNoOperand_error]
  have row : op.toNat = 0 ∨ op.toNat = 1 ∨ op.toNat = 2 ∨ op.toNat = 3 ∨ op.toNat = 4 ∨ op.toNat = 5 ∨ op.toNat = 6 ∨
      op.toNat = 7 ∨ op.toNat = 8 ∨ op.toNat = 9 ∨ op.toNat = 10 ∨ op.toNat = 11 ∨ op.toNat = 12 ∨ 13 ≤ op.toNat := by omega
  rcases row with h | h | h | h | h | h | h | h | h | h | h | h | h | h <;> simp [h, BitVec.toNat_eq]
  omega

/-- Settles O4: each word is evaluated. -/
theorem writtenOutWordsDecode : Obligations.WrittenOutWordsDecode := by
  unfold Obligations.WrittenOutWordsDecode
  exact ⟨rfl, rfl, rfl, rfl, rfl, rfl, rfl, rfl, rfl, rfl, rfl, rfl, rfl, rfl, rfl, rfl, rfl⟩

end Sys2Proof
end

section
/-! PROOF. What each instruction does, said once. A host operation but INIT ends with the registers of `opRegs`, has written the
bursts of `opBursts`, and the controller has received those writes (`exec_ran`); a wire byte changes the controller alone
(`exec_wire`). -/

namespace Sys2Proof.Machine

/-! ## A run of writes with its registers -/

/-- From `s` to `t` these bursts were written and received, and the registers of `t` are those of `r`. -/
structure Ran (s t r : State) (bursts : List (List Byte)) : Prop where
  core_eq : t.core = r.core
  sent : Sent s t bursts
  fed : Fed s t

theorem Ran.refl (s : State) : Ran s s s [] := ⟨rfl, Sent.refl s, Fed.refl s⟩

/-- Register assignments before a run that no write depends on. -/
theorem Ran.of_regs {s s' t r : State} {bs : List (List Byte)} (h : Ran s' t r bs) (hx : s'.tx = s.tx)
    (ha : s'.answers = s.answers) (he : s'.txerr = s.txerr) (had : s'.address = s.address) (hc : s'.cfg = s.cfg)
    (hk : s'.chip = s.chip) (hp : s'.panel = s.panel) : Ran s t r bs :=
  ⟨h.core_eq, h.sent.of_regs hx ha he had hc, (Fed.of_regs hc hk hx hp).trans h.fed⟩

/-- One run after another, the second one's bursts said of its first state. -/
theorem Ran.trans {s t u r q : State} {a b : List (List Byte)} (h : Ran s t r a) (h' : Ran t u q b)
    (had : r.address = s.address) (hc : r.cfg = s.cfg) : Ran s u q (a ++ b) :=
  ⟨h'.core_eq, h.sent.trans' h'.sent h.core_eq had hc, h.fed.trans h'.fed⟩

/-- The same run with its registers given otherwise. -/
theorem Ran.regs_eq {s t r q : State} {bs : List (List Byte)} (h : Ran s t r bs) (e : r.core = q.core) : Ran s t q bs :=
  ⟨h.core_eq.trans e, h.sent, h.fed⟩

/-- An assignment to registers alone. -/
theorem Ran.assign {s t : State} (hx : t.tx = s.tx) (ha : t.answers = s.answers) (he : t.txerr = s.txerr)
    (hc : t.cfg = s.cfg) (hk : t.chip = s.chip) (hp : t.panel = s.panel) : Ran s t t [] :=
  ⟨rfl, (Sent.refl s).to_regs hx ha he, Fed.of_regs hc hk hx hp⟩

/-! ## The controller after a run -/

/-- The controller after these bursts, all received (R67). -/
def State.delivered (s : State) (bs : List (List Byte)) (p : Panel) : Panel :=
  bs.foldl (fun p b => p.deliver s.cfg (chipWidth s.chip) b) p

@[simp] theorem State.delivered_nil (s : State) (p : Panel) : s.delivered [] p = p := rfl

@[simp] theorem State.delivered_cons (s : State) (b : List Byte) (bs : List (List Byte)) (p : Panel) :
    s.delivered (b :: bs) p = s.delivered bs (p.deliver s.cfg (chipWidth s.chip) b) := rfl

@[simp] theorem State.delivered_append (s : State) (as bs : List (List Byte)) (p : Panel) :
    s.delivered (as ++ bs) p = s.delivered bs (s.delivered as p) := List.foldl_append

/-- The controller after a run no burst of which failed (U4). -/
theorem Ran.panel_eq {s t r : State} {bs : List (List Byte)} (h : Ran s t r bs) (ok : t.txerr = false) :
    t.panel = s.delivered bs s.panel := h.sent.panel_eq h.fed ok

/-! ## The shared procedures -/

/-- The cursor at the home cell of an unscrolled window (R163). -/
def State.homed (s : State) : State := ((s.lineAt 0).columnAt 0).windowAt 0

theorem State.setCursorBody_ran (l : BitVec 3) (c : BitVec 4) (s : State) :
    Ran s (s.setCursorBody l c) ((s.lineAt l).columnAt (c.zeroExtend 5))
      [wirePosition s.cfg s.lineOffset.toNat l.toNat (c.toNat * 8 + s.columnOffset.toNat)] :=
  ⟨setCursorBody_core l c s, setCursorBody_sent l c s, setCursorBody_fed l c s⟩

theorem State.clearLineBody_ran (row : BitVec 3) (s : State) :
    Ran s (s.clearLineBody row) ((s.lineAt row).columnAt 0) (wireClearLine s row.toNat) :=
  ⟨clearLineBody_core row s, clearLineBody_sent row s, clearLineBody_fed row s⟩

theorem State.clearBody_ran (s : State) : Ran s s.clearBody s.homed (wireClear s) :=
  ⟨clearBody_core s, clearBody_sent s, clearBody_fed s⟩

/-- The bursts of one line advance (R103). -/
def advanceBursts (forced : Bool) (s : State) : List (List Byte) :=
  wireNextLine s (lineAfter s.printMode forced s.line.toNat) (lineOffsetAfter s.printMode s.line.toNat s.lineOffset.toNat)

theorem State.nextLine_ran (forced : Bool) (s : State) :
    Ran s (s.nextLine forced) ((s.advanced forced).columnAt 0) (advanceBursts forced s) :=
  ⟨nextLine_core forced s, nextLine_sent forced s, nextLine_fed forced s⟩

theorem State.emitCmdBurst_ran (b : CmdBurst) (s : State) : Ran s (s.emitCmdBurst b) s [frameCmd s.cfg b] :=
  ⟨emitCmdBurst_core b s, emitCmdBurst_sent b s, emitCmdBurst_fed b s⟩

theorem State.renderGlyph_ran (code : Byte) (s : State) : Ran s (s.renderGlyph code) s [wireGlyph s code] :=
  ⟨renderGlyph_core code s, renderGlyph_sent code s, renderGlyph_fed code s⟩

theorem State.emitFlip_ran (flipped : Bool) (s : State) :
    Ran s (s.emitFlip flipped) s (wireFlip s.cfg (flipOpcodes s.cfg flipped).1 (flipOpcodes s.cfg flipped).2) :=
  ⟨emitFlip_core flipped s, emitFlip_sent flipped s, emitFlip_fed flipped s⟩

/-- The bursts of a clear depend on registers only (R163). -/
theorem wireClear_of_core {s t : State} (h : t.core = s.core) : wireClear t = wireClear s :=
  wireClear_congr (State.core_cfg_eq h) (State.core_chip_eq h) (State.core_lineOffset_eq h) (State.core_columnOffset_eq h)

/-- The burst of a glyph depends on these registers only (R106). -/
theorem wireGlyph_congr {s t : State} (h : t.core = s.core) (code : Byte) : wireGlyph t code = wireGlyph s code := by
  simp [wireGlyph, State.core_cfg_eq h, State.core_inverseFont_eq h]

/-- A glyph and the column after it (R104). -/
theorem State.renderGlyph_columnAt_ran (code : Byte) (s : State) :
    Ran s ((s.renderGlyph code).columnAt (s.column + 1)) (s.columnAt (s.column + 1)) [wireGlyph s code] := by
  have h := renderGlyph_ran code s
  exact ⟨core_columnAt h.core_eq _, h.sent.to_regs rfl rfl rfl, h.fed.trans (columnAt_fed _ _)⟩

theorem State.printGlyph_eq (code : Byte) (s : State) :
    s.printGlyph code = (fun s : State => (s.renderGlyph code).columnAt (s.column + 1))
      (if maxTextColumns ≤ s.column.toNat then s.nextLine false else s) := by
  simp only [printGlyph, State.core_column_eq (renderGlyph_core code _)]

/-! ## The operations -/

/-- The registers after a printable code (R104): the natural line advance first, where the wrap is pending. -/
def glyphRegs (s : State) : State := if 16 ≤ s.column.toNat then (s.advanced false).columnAt 1 else s.columnAt (s.column + 1)

/-- The bursts of a printable code (R104, R106). -/
def glyphBursts (code : Byte) (s : State) : List (List Byte) :=
  if 16 ≤ s.column.toNat then advanceBursts false s ++ [wireGlyph s code] else [wireGlyph s code]

/-- The registers after PRINT_CHAR (R102, R104, R105). -/
def printRegs (code : Byte) (s : State) : State :=
  match charClass code with
  | .newline => (s.advanced true).columnAt 0
  | .printable => glyphRegs s
  | .ignored => s

/-- The bursts of PRINT_CHAR (R103, R106). -/
def printBursts (code : Byte) (s : State) : List (List Byte) :=
  match charClass code with
  | .newline => advanceBursts true s
  | .printable => glyphBursts code s
  | .ignored => []

theorem State.printGlyph_ran (code : Byte) (s : State) :
    Ran s (s.printGlyph code) (glyphRegs s) (glyphBursts code s) := by
  rw [printGlyph_eq, glyphRegs, glyphBursts]
  by_cases wrap : 16 ≤ s.column.toNat
  · simp only [maxTextColumns, wrap, if_true]
    have next := nextLine_ran false s
    have glyph := renderGlyph_columnAt_ran code (s.nextLine false)
    have column : (s.nextLine false).column + 1 = 1 := by rw [State.core_column_eq next.core_eq]; rfl
    rw [column, wireGlyph_congr next.core_eq] at glyph
    rw [column]
    exact (next.trans glyph rfl rfl).regs_eq (core_columnAt next.core_eq 1)
  · simp only [maxTextColumns, wrap, if_false]
    exact renderGlyph_columnAt_ran code s

theorem State.printCharBody_ran (code : Byte) (s : State) :
    Ran s (s.printCharBody code) (printRegs code s) (printBursts code s) := by
  unfold printCharBody printRegs printBursts
  cases charClass code with
  | newline => exact nextLine_ran true s
  | printable => exact printGlyph_ran code s
  | ignored => exact Ran.refl s

/-- The registers a host operation but INIT leaves, once past the gate (R40). -/
def opRegs (i : Instr) (s : State) : State :=
  match i with
  | .printChar code => printRegs code s
  | .clear | .flip _ => s.homed
  | .clearLine row =>
    match lineOperand row with
    | some r => (s.lineAt r).columnAt 0
    | none => s
  | .clearCurrentLine => s.columnAt 0
  | .setCursor line column =>
    match lineOperand line, columnOperand column with
    | some l, some c => (s.lineAt l).columnAt (c.zeroExtend 5)
    | some _, none => s
    | none, some _ => s
    | none, none => s
  | .home => (s.lineAt 0).columnAt 0
  | .setInverseFont flag => { s with inverseFont := boolOperand flag }
  | .setPrintMode mode => { s with printMode := (printModeOperand mode).getD s.printMode }
  | .setDisplayColumnOffset n =>
    match offsetOperand n with
    | some o => { s with columnOffset := if s.chip = .ssd1306 then 0 else o }
    | none => s
  | .init _ _ | .setInverse _ | .ctrlMore | .ctrlLast | .ctrlData | .pageAddress _ | .columnAddressLow _
  | .columnAddressHigh _ | .startLine _ | .modeNormal | .modeInverse | .segmentRemapUnflipped | .segmentRemapFlipped
  | .scanDirectionUnflipped | .scanDirectionFlipped => s

/-- The bursts a host operation but INIT writes, once past the gate. -/
def opBursts (i : Instr) (s : State) : List (List Byte) :=
  match i with
  | .printChar code => printBursts code s
  | .clear => wireClear s
  | .clearLine row =>
    match lineOperand row with
    | some r => wireClearLine s r.toNat
    | none => []
  | .clearCurrentLine => wireClearLine s s.line.toNat
  | .setCursor line column =>
    match lineOperand line, columnOperand column with
    | some l, some c => [wirePosition s.cfg s.lineOffset.toNat l.toNat (c.toNat * 8 + s.columnOffset.toNat)]
    | some _, none => []
    | none, some _ => []
    | none, none => []
  | .home => [wirePosition s.cfg s.lineOffset.toNat 0 s.columnOffset.toNat]
  | .setInverse flag => [[s.cfg.ctrlLast, if flag.toNat = 0 then s.cfg.opModeNormal else s.cfg.opModeInverse]]
  | .flip flag =>
    wireFlip s.cfg (flipOpcodes s.cfg (boolOperand flag)).1 (flipOpcodes s.cfg (boolOperand flag)).2 ++ wireClear s
  | .init _ _ | .setInverseFont _ | .setPrintMode _ | .setDisplayColumnOffset _ | .ctrlMore | .ctrlLast | .ctrlData
  | .pageAddress _ | .columnAddressLow _ | .columnAddressHigh _ | .startLine _ | .modeNormal | .modeInverse
  | .segmentRemapUnflipped | .segmentRemapFlipped | .scanDirectionUnflipped | .scanDirectionFlipped => []

theorem State.flipBody_ran (flipped : Bool) (s : State) :
    Ran s (s.emitFlip flipped).clearBody s.homed
      (wireFlip s.cfg (flipOpcodes s.cfg flipped).1 (flipOpcodes s.cfg flipped).2 ++ wireClear s) := by
  have flip := emitFlip_ran flipped s
  have clear := clearBody_ran (s.emitFlip flipped)
  rw [wireClear_of_core flip.core_eq] at clear
  exact (flip.trans clear rfl rfl).regs_eq (core_windowAt (core_columnAt (core_lineAt flip.core_eq 0) 0) 0)

/-- A connected block: what a host operation but INIT does (R40, R186). -/
theorem exec_ran {i : Instr} {s : State} (hi : i.isHost = true) (notInit : ∀ c r, i ≠ .init c r)
    (hc : s.connected = true) : ∃ t, exec i s = .next t ∧ Ran s t (opRegs i s) (opBursts i s) := by
  have run {body : State → State} (h : Ran s (body s) (opRegs i s) (opBursts i s)) :
      ∃ t, Host.Outcome.next (ρ := Refusal) (φ := Fault) (s.gated body) = .next t ∧ Ran s t (opRegs i s) (opBursts i s) :=
    ⟨_, by rw [State.gated_connected hc], h⟩
  cases i with
  | init chip req => exact absurd rfl (notInit chip req)
  | printChar code => exact run (State.printCharBody_ran code s)
  | clear => exact run (State.clearBody_ran s)
  | clearLine row =>
    refine run ?_
    simp only [opRegs, opBursts]
    cases lineOperand row with
    | none => exact Ran.refl s
    | some r => exact State.clearLineBody_ran r s
  | clearCurrentLine => exact run (State.clearLineBody_ran s.line s)
  | setCursor line column =>
    refine run ?_
    simp only [opRegs, opBursts]
    cases lineOperand line with
    | none => cases columnOperand column <;> exact Ran.refl s
    | some l =>
      cases columnOperand column with
      | none => exact Ran.refl s
      | some c => exact State.setCursorBody_ran l c s
  | home =>
    have h := State.setCursorBody_ran 0 0 s
    exact run (by simpa [opRegs, opBursts] using h)
  | setInverse flag => exact ⟨_, exec_setInverse_connected hc flag, State.emitCmdBurst_ran _ s⟩
  | flip flag => exact run (State.flipBody_ran (boolOperand flag) s)
  | setInverseFont flag => exact run (Ran.assign rfl rfl rfl rfl rfl rfl)
  | setPrintMode mode =>
    refine run ?_
    simp only [opRegs, opBursts]
    cases printModeOperand mode with
    | none => exact Ran.refl s
    | some m => exact Ran.assign rfl rfl rfl rfl rfl rfl
  | setDisplayColumnOffset n =>
    refine run ?_
    simp only [opRegs, opBursts]
    cases offsetOperand n with
    | none => exact Ran.refl s
    | some o => cases hk : s.chip <;> exact Ran.assign rfl rfl rfl rfl hk.symm rfl
  | _ => simp [Instr.isHost] at hi

/-- The registers and bursts of a host operation but INIT, the gate included (R186). -/
theorem exec_ran_gated {i : Instr} {s t : State} (hi : i.isHost = true) (notInit : ∀ c r, i ≠ .init c r)
    (h : exec i s = .next t) :
    (s.connected = true ∧ Ran s t (opRegs i s) (opBursts i s)) ∨ (s.connected = false ∧ t = s) := by
  cases hc : s.connected with
  | true =>
    obtain ⟨u, e, ran⟩ := exec_ran hi notInit hc
    obtain rfl : u = t := by simpa [e] using h
    exact .inl ⟨rfl, ran⟩
  | false =>
    rw [exec_disconnected hi notInit hc] at h
    exact .inr ⟨rfl, by simpa using h.symm⟩

/-- A wire byte acts on the controller and on nothing else (R53, R83 to R93). -/
theorem exec_wire {i : Instr} (hi : i.isHost = false) (s : State) :
    exec i s = .next { s with panel := wireEffect i s.panel } := by
  cases i with
  | init | printChar | clear | clearLine | clearCurrentLine | setCursor | home | setInverse | flip | setInverseFont
  | setPrintMode | setDisplayColumnOffset => simp [Instr.isHost] at hi
  | _ => rfl

end Sys2Proof.Machine
end

section
/-! PROOF. The ways an INIT goes (42_facade.md R151 to R154): which probes it makes, and from a successful one on the registers,
the bursts and the controller they leave. Then every instruction's ways in one inversion lemma (`exec_run`). -/

namespace Sys2Proof.Machine

/-! ## Probes -/

/-- Probes of these addresses, in order (R152). -/
def State.probeAll (as : List Byte) (s : State) : State := as.foldl (fun u a => u.probe a) s

/-- The events of these probes (R54). -/
def State.probeEvents (s : State) (as : List Byte) : List TxWrite := as.mapIdx fun k a => s.probeEvent a k

@[simp] theorem State.probeEvents_length (s : State) (as : List Byte) : (s.probeEvents as).length = as.length := by
  simp [probeEvents]

theorem State.mem_probeEvents {s : State} {as : List Byte} {e : TxWrite} (h : e ∈ s.probeEvents as) :
    e.addr ∈ as ∧ e.bytes = [] ∧ e.timeout = s.cfg.txTimeout := by
  obtain ⟨k, hk, rfl⟩ := List.mem_mapIdx.1 h
  exact ⟨List.getElem_mem hk, rfl, rfl⟩

theorem State.mem_burstEvents {s : State} {bs : List (List Byte)} {e : TxWrite} (h : e ∈ s.burstEvents bs) :
    e.addr = s.address ∧ e.bytes ∈ bs ∧ e.timeout = s.cfg.txTimeout := by
  obtain ⟨k, hk, rfl⟩ := List.mem_mapIdx.1 h
  exact ⟨rfl, List.getElem_mem hk, rfl⟩

theorem State.answerAt_probe (s : State) (a : Byte) (k : Nat) : (s.probe a).answerAt k = s.answerAt (k + 1) :=
  answerAt_succ (probe_tx a s) rfl k

theorem State.probeAll_tx (as : List Byte) (s : State) : (s.probeAll as).tx = s.tx ++ s.probeEvents as := by
  induction as generalizing s with
  | nil => simp [probeAll, probeEvents]
  | cons a as ih =>
    have later (k : Nat) (b : Byte) : (s.probe a).probeEvent b k = s.probeEvent b (k + 1) := by
      simp [probeEvent, answerAt_probe]
    have first : (s.probe a).tx = s.tx ++ [s.probeEvent a 0] := probe_tx a s
    have rest := ih (s.probe a)
    simp only [probeEvents, later, first] at rest
    simpa [probeAll, probeEvents, List.mapIdx_cons] using rest

theorem State.probeAll_core (as : List Byte) (s : State) : (s.probeAll as).core = s.core := by
  induction as generalizing s with
  | nil => rfl
  | cons a as ih => exact (ih _).trans (txWrite_core a [] s)

theorem State.probeAll_answers (as : List Byte) (s : State) : (s.probeAll as).answers = s.answers.drop as.length := by
  induction as generalizing s with
  | nil => rfl
  | cons a as ih => simpa [probeAll] using ih (s.probe a)

theorem State.probeAll_txerr (as : List Byte) (s : State) : (s.probeAll as).txerr = s.txerr := by
  induction as generalizing s with
  | nil => rfl
  | cons a as ih => exact ih (s.probe a)

/-- A probe moves at most the receiver (R54, log entry 7). -/
theorem State.probe_panel (a : Byte) (s : State) :
    (s.probe a).panel = if s.nextAnswer then s.panel.atPhase .control else s.panel :=
  Panel.arrive_probe _ _ _ _

theorem State.probeAll_panel_failed {as : List Byte} {s : State} (h : ∀ k, k < as.length → s.answerAt k = false) :
    (s.probeAll as).panel = s.panel := by
  induction as generalizing s with
  | nil => rfl
  | cons a as ih =>
    have first : (s.probe a).panel = s.panel := by
      simp [probe_panel, show s.nextAnswer = false from h 0 (Nat.zero_lt_succ _)]
    have rest := ih (s := s.probe a) fun k hk => by rw [answerAt_probe]; exact h _ (Nat.succ_lt_succ hk)
    exact rest.trans first

theorem State.probeAll_orientation (as : List Byte) (s : State) :
    (s.probeAll as).panel.segFlipped = s.panel.segFlipped ∧ (s.probeAll as).panel.scanFlipped = s.panel.scanFlipped := by
  induction as generalizing s with
  | nil => exact ⟨rfl, rfl⟩
  | cons a as ih =>
    have first : (s.probe a).panel.segFlipped = s.panel.segFlipped ∧ (s.probe a).panel.scanFlipped = s.panel.scanFlipped := by
      rw [probe_panel]; split <;> exact ⟨rfl, rfl⟩
    exact ⟨(ih (s.probe a)).1.trans first.1, (ih (s.probe a)).2.trans first.2⟩

/-- Probing in order ends at the first address that answers, or after all (R151). -/
theorem probeFirst_cases (as : List Byte) (s : State) :
    (probeFirst as s = (none, s.probeAll as) ∧ ∀ k, k < as.length → s.answerAt k = false) ∨
    ∃ front sel rest, as = front ++ sel :: rest ∧ probeFirst as s = (some sel, s.probeAll (front ++ [sel])) := by
  induction as generalizing s with
  | nil => exact .inl ⟨rfl, by simp⟩
  | cons a as ih =>
    cases ok : s.nextAnswer with
    | true => exact .inr ⟨[], a, as, rfl, by simp [probeFirst, ok, State.probeAll]⟩
    | false =>
      rcases ih (s.probe a) with ⟨none, failed⟩ | ⟨front, sel, rest, rfl, found⟩
      · refine .inl ⟨by simp [probeFirst, ok, none, State.probeAll], fun k hk => ?_⟩
        cases k with
        | zero => exact ok
        | succ k => rw [← State.answerAt_probe]; exact failed k (Nat.lt_of_succ_lt_succ hk)
      · exact .inr ⟨a :: front, sel, rest, rfl, by simp [probeFirst, ok, found, State.probeAll]⟩

/-- R151: what may be probed is one of the two addresses, and no more than both. -/
theorem probeCandidates_allowed {c : Config} {req : Byte} (h : addressAllowed c req = true) :
    (∀ a ∈ probeCandidates c req, a = c.addrA ∨ a = c.addrB) ∧ (probeCandidates c req).length ≤ 2 := by
  by_cases auto : req = c.addrAuto
  · simp [probeCandidates, auto]
  · have : req = c.addrA ∨ req = c.addrB := by simpa [addressAllowed, auto] using h
    simpa [probeCandidates, auto] using this

/-! ## From a successful probe on -/

/-- An INIT's state once its probes are made: disconnected on entry (decision D9). -/
def State.probed (as : List Byte) (s : State) : State := State.probeAll as { s with connected := false }

theorem State.probed_core (as : List Byte) (s : State) :
    (s.probed as).core = ({ s with connected := false } : State).core := probeAll_core as _

theorem State.probed_tx (as : List Byte) (s : State) : (s.probed as).tx = s.tx ++ s.probeEvents as := probeAll_tx as _

theorem State.probed_answers (as : List Byte) (s : State) : (s.probed as).answers = s.answers.drop as.length :=
  probeAll_answers as _

theorem State.probed_txerr (as : List Byte) (s : State) : (s.probed as).txerr = s.txerr := probeAll_txerr as _

/-- The state from which an INIT writes its bursts: its probes made, its registers written (R151). -/
def State.initStart (chip : Chip) (sel : Byte) (as : List Byte) (s : State) : State :=
  { s with
    chip := chip
    address := sel
    connected := true
    status := .ok
    columnOffset := if chip = .ssd1306 then 0 else s.cfg.defaultColOffsetSH1106
    tx := s.tx ++ s.probeEvents as
    answers := s.answers.drop as.length }

/-- The bursts of an INIT: the power-on table, the home position, the clear (R151). -/
def initBursts (s : State) : List (List Byte) :=
  ((powerOnBursts s.cfg s.chip).map fun b => frameCmd s.cfg b.toCmd) ++
    wirePosition s.cfg s.lineOffset.toNat 0 s.columnOffset.toNat :: wireClear s

theorem State.initRegs_core (chip : Chip) (sel : Byte) (as : List Byte) (s : State) :
    ((s.probed as).initRegs chip sel).core = (s.initStart chip sel as).core := by
  have regs := core_fields (s.probed_core as)
  apply core_of_fields
  cases chip <;> simp [initRegs, initStart, defaultColOffset, regs]

theorem State.found_core (chip : Chip) (sel : Byte) (as : List Byte) (s : State) :
    ((s.probed as).initConnected chip sel).core = (s.initStart chip sel as).homed.core :=
  (initConnected_core chip sel _).trans
    (core_windowAt (core_columnAt (core_lineAt (initRegs_core chip sel as s) 0) 0) 0)

theorem State.found_sent (chip : Chip) (sel : Byte) (as : List Byte) (s : State) :
    Sent (s.initStart chip sel as) ((s.probed as).initConnected chip sel) (initBursts (s.initStart chip sel as)) := by
  have regs := core_fields (initRegs_core chip sel as s)
  have probed := core_fields (s.probed_core as)
  have sent := initConnected_sent chip sel (s.probed as)
  have same : wireClear ((s.probed as).initRegs chip sel) = wireClear (s.initStart chip sel as) :=
    wireClear_of_core (initRegs_core chip sel as s)
  rw [same] at sent
  have moved := sent.of_regs (s := s.initStart chip sel as) (probed_tx as s) (probed_answers as s) (probed_txerr as s)
    (core_address_eq (initRegs_core chip sel as s)) (core_cfg_eq (initRegs_core chip sel as s))
  convert moved using 1
  simp [initBursts, probed, regs]
  rfl

/-- The controller after an INIT no burst of which failed. -/
theorem State.found_panel {chip : Chip} {sel : Byte} {as : List Byte} {s : State}
    (h : ((s.probed as).initConnected chip sel).txerr = false) :
    ((s.probed as).initConnected chip sel).panel =
      (s.initStart chip sel as).delivered (wireClear (s.initStart chip sel as))
        ((s.initStart chip sel as).delivered
          [wirePosition s.cfg s.lineOffset.toNat 0 (s.initStart chip sel as).columnOffset.toNat]
          ((powerOnBursts s.cfg chip).foldl (fun p b => p.powerOn s.cfg b) (s.probed as).panel)) := by
  have regs := initRegs_core chip sel as s
  have cfg : (s.probed as).cfg = s.cfg := (core_fields (s.probed_core as)).2.2.2.2.2.2.2.2.2.2.1
  rw [show (s.probed as).initConnected chip sel =
    ((((s.probed as).initRegs chip sel).emitPowerOn (powerOnBursts (s.probed as).cfg chip)).setCursorBody 0 0).clearBody
    from rfl, cfg] at h ⊢
  have on := emitPowerOn_panel (powerOnBursts s.cfg chip) ((s.probed as).initRegs chip sel)
  have core := (emitPowerOn_core (powerOnBursts s.cfg chip) ((s.probed as).initRegs chip sel)).trans regs
  generalize ((s.probed as).initRegs chip sel).emitPowerOn (powerOnBursts s.cfg chip) = v at *
  have home := setCursorBody_ran 0 0 v
  have clear := clearBody_ran (v.setCursorBody 0 0)
  have run := home.trans clear rfl rfl
  have fields := core_fields core
  rw [run.panel_eq h, on (run.sent.txerr_mono h)]
  have same : wireClear (v.setCursorBody 0 0) = wireClear (s.initStart chip sel as) :=
    (wireClear_of_core home.core_eq).trans (wireClear_of_core core : wireClear v = _)
  rw [same]
  simp [delivered, fields, initStart, initRegs, cfg]

/-! ## The ways an INIT goes -/

/-- How an INIT goes (R151): no probe outside the set; no device; or the bursts to the first address that answered. -/
inductive InitRun (s : State) (chip : Chip) (req : Byte) : State → Prop
  | invalid (h : addressAllowed s.cfg req = false) :
    InitRun s chip req { s with connected := false, status := .invalidAddress }
  | notFound (h : addressAllowed s.cfg req = true)
    (failed : ∀ k, k < (probeCandidates s.cfg req).length → s.answerAt k = false) :
    InitRun s chip req ((s.probed (probeCandidates s.cfg req)).raiseError .deviceNotFound)
  | found {front rest : List Byte} {sel : Byte} (h : addressAllowed s.cfg req = true)
    (e : probeCandidates s.cfg req = front ++ sel :: rest) :
    InitRun s chip req ((s.probed (front ++ [sel])).initConnected chip sel)

theorem State.initBody_run (chip : Chip) (req : Byte) (s : State) : InitRun s chip req (s.initBody chip req) := by
  cases h : addressAllowed s.cfg req with
  | false => rw [initBody_invalid h]; exact .invalid h
  | true =>
    rw [initBody_allowed chip h]
    rcases probeFirst_cases (probeCandidates s.cfg req) { s with connected := false } with
      ⟨none, failed⟩ | ⟨front, sel, rest, e, found⟩
    · rw [none]; exact .notFound h failed
    · rw [found]; exact .found h e

theorem initRun_of_exec {s t : State} {chip : Chip} {req : Byte} (h : exec (.init chip req) s = .next t) :
    InitRun s chip req t := by
  rw [← Host.Outcome.next.inj h]
  exact State.initBody_run chip req s

/-! ## The ways an instruction goes -/

/-- What an instruction does: a wire byte, an operation behind the gate, or INIT. -/
inductive ExecRun : Instr → State → State → Prop
  | wire {i : Instr} {s : State} (hi : i.isHost = false) : ExecRun i s { s with panel := wireEffect i s.panel }
  | op {i : Instr} {s t : State} (hi : i.isHost = true) (notInit : ∀ c r, i ≠ .init c r) (hc : s.connected = true)
    (ran : Ran s t (opRegs i s) (opBursts i s)) : ExecRun i s t
  | disconnected {i : Instr} {s : State} (hi : i.isHost = true) (notInit : ∀ c r, i ≠ .init c r)
    (hc : s.connected = false) : ExecRun i s s
  | init {s t : State} {chip : Chip} {req : Byte} (run : InitRun s chip req t) : ExecRun (.init chip req) s t

theorem exec_run {i : Instr} {s t : State} (h : exec i s = .next t) : ExecRun i s t := by
  cases hi : i.isHost with
  | false =>
    rw [exec_wire hi] at h
    obtain rfl := Host.Outcome.next.inj h
    exact .wire hi
  | true =>
    by_cases isInit : ∃ c r, i = .init c r
    · obtain ⟨chip, req, rfl⟩ := isInit
      exact .init (initRun_of_exec h)
    · have notInit : ∀ c r, i ≠ .init c r := fun c r e => isInit ⟨c, r, e⟩
      rcases exec_ran_gated hi notInit h with ⟨hc, ran⟩ | ⟨hc, rfl⟩
      · exact .op hi notInit hc ran
      · exact .disconnected hi notInit hc

end Sys2Proof.Machine
end

section
/-! PROOF. What holds of every instruction: which registers it writes, the form and the number of its writes, when `txerr` is set,
and that the transport's answers reach nothing but `txerr`. Each from the ways an instruction goes (`ExecRun`). -/

namespace Sys2Proof.Machine

/-! ## The registers an instruction keeps (R40) -/

/-- The columns of R40's table: what an instruction may not write is what it was. -/
structure Frame (i : Instr) (s t : State) : Prop where
  cfg_eq : t.cfg = s.cfg
  inputs_eq : t.inputs = s.inputs
  device_eq : (∀ c r, i ≠ .init c r) →
    t.chip = s.chip ∧ t.address = s.address ∧ t.connected = s.connected ∧ t.status = s.status
  printMode_eq : (∀ m, i ≠ .setPrintMode m) → t.printMode = s.printMode
  inverseFont_eq : (∀ f, i ≠ .setInverseFont f) → t.inverseFont = s.inverseFont
  columnOffset_eq : (∀ c r, i ≠ .init c r) → (∀ n, i ≠ .setDisplayColumnOffset n) → t.columnOffset = s.columnOffset
  lineOffset_eq : (∀ c r, i ≠ .init c r) → (∀ k, i ≠ .printChar k) → i ≠ .clear → (∀ f, i ≠ .flip f) →
    t.lineOffset = s.lineOffset
  cursor_eq : (∀ c r, i ≠ .init c r) → (∀ k, i ≠ .printChar k) → i ≠ .clear → (∀ f, i ≠ .flip f) →
    (∀ r, i ≠ .clearLine r) → i ≠ .home → (∀ l c, i ≠ .setCursor l c) →
    t.line = s.line ∧ (i ≠ .clearCurrentLine → t.column = s.column)

theorem Frame.of_core {i : Instr} {s t r : State} (h : Frame i s r) (e : t.core = r.core) : Frame i s t := by
  obtain ⟨chip, address, connected, line, column, lineOffset, columnOffset, printMode, inverseFont, status, cfg, inputs⟩ :=
    State.core_fields e
  exact ⟨cfg.trans h.cfg_eq, inputs.trans h.inputs_eq,
    fun n => by rw [chip, address, connected, status]; exact h.device_eq n,
    fun n => printMode.trans (h.printMode_eq n), fun n => inverseFont.trans (h.inverseFont_eq n),
    fun n m => columnOffset.trans (h.columnOffset_eq n m), fun a b c d => lineOffset.trans (h.lineOffset_eq a b c d),
    fun a b c d e f g => by rw [line, column]; exact h.cursor_eq a b c d e f g⟩

theorem glyphRegs_frame (code : Byte) (s : State) : Frame (.printChar code) s (glyphRegs s) := by
  unfold glyphRegs
  split <;> constructor <;> simp [State.advanced]

/-- PRINT_CHAR writes the cursor and the scroll window. -/
theorem printRegs_frame (code : Byte) (s : State) : Frame (.printChar code) s (printRegs code s) := by
  unfold printRegs
  cases charClass code with
  | newline => constructor <;> simp [State.advanced]
  | printable => exact glyphRegs_frame code s
  | ignored => constructor <;> simp

theorem opRegs_frame (i : Instr) (s : State) : Frame i s (opRegs i s) := by
  cases i with
  | printChar code => exact printRegs_frame code s
  | clearLine row => simp only [opRegs]; split <;> constructor <;> simp
  | setCursor line column => simp only [opRegs]; split <;> constructor <;> simp
  | setDisplayColumnOffset n => simp only [opRegs]; split <;> constructor <;> simp
  | _ => constructor <;> simp [opRegs, State.homed]

/-- INIT keeps the parameters, the events and what only the setters write (R151). -/
theorem InitRun.frame {s t : State} {chip : Chip} {req : Byte} (h : InitRun s chip req t) : Frame (.init chip req) s t := by
  cases h with
  | invalid => constructor <;> simp
  | notFound =>
    have regs := State.core_fields (s.probed_core (probeCandidates s.cfg req))
    constructor <;> simp [regs]
  | found =>
    refine Frame.of_core ?_ (State.found_core chip _ _ s)
    constructor <;> simp [State.homed, State.initStart]

theorem ExecRun.frame {i : Instr} {s t : State} (h : ExecRun i s t) : Frame i s t := by
  cases h with
  | wire => constructor <;> simp
  | op _ _ _ ran => exact (opRegs_frame i s).of_core ran.core_eq
  | disconnected => constructor <;> simp
  | init run => exact run.frame

/-- Settles O13: operation by operation, from the registers it leaves. -/
theorem registersWrittenOnlyByTheirOperations : Obligations.RegistersWrittenOnlyByTheirOperations := by
  intro i s t h
  obtain ⟨cfg, inputs, device, printMode, inverseFont, columnOffset, lineOffset, cursor⟩ := (exec_run h).frame
  exact ⟨cfg, inputs, device, printMode, inverseFont, columnOffset, lineOffset, cursor⟩

/-! ## Every burst is framed (R78, R79, R81) -/

/-- A command burst or a data burst (R81). -/
def IsBurst (c : Config) (b : List Byte) : Prop := isCommandFrame c b = true ∨ isDataFrame c b = true

theorem IsBurst.ne_nil {c : Config} {b : List Byte} (h : IsBurst c b) : b ≠ [] := by
  rintro rfl
  simp [IsBurst, isCommandFrame, isDataFrame] at h

theorem isBurst_frameCmd (c : Config) (b : CmdBurst) : IsBurst c (frameCmd c b) := by
  obtain ⟨front, last⟩ := b
  left
  induction front with
  | nil => simp [isCommandFrame]
  | cons o front ih =>
    cases front with
    | nil => simp [isCommandFrame]
    | cons o' front => simpa [isCommandFrame] using ih

theorem isBurst_position (c : Config) (o l px : Nat) : IsBurst c (wirePosition c o l px) := by
  simp [IsBurst, wirePosition, isCommandFrame]

theorem isBurst_startLine (c : Config) (o : Nat) : IsBurst c (wireStartLine c o) := by
  simp [IsBurst, wireStartLine, isCommandFrame]

theorem isBurst_glyph (s : State) (code : Byte) : IsBurst s.cfg (wireGlyph s code) := by
  simp [IsBurst, wireGlyph, glyphToList, isDataFrame]

theorem isBurst_sweep {c : Config} {chip : Chip} {b : List Byte} (h : b ∈ wireSweep c chip) : IsBurst c b := by
  cases chip <;> simp [wireSweep] at h <;> simp [h, IsBurst, isDataFrame]

theorem isBurst_clearLine {s : State} {row : Nat} {b : List Byte} (h : b ∈ wireClearLine s row) : IsBurst s.cfg b := by
  simp only [wireClearLine, List.cons_append, List.mem_cons, List.mem_append, List.not_mem_nil, or_false] at h
  rcases h with rfl | h | rfl
  · exact isBurst_position ..
  · exact isBurst_sweep h
  · exact isBurst_position ..

theorem isBurst_clear {s : State} {b : List Byte} (h : b ∈ wireClear s) : IsBurst s.cfg b := by
  simp only [wireClear, List.mem_append, List.mem_flatMap, List.mem_cons, List.not_mem_nil, or_false] at h
  rcases h with ⟨row, -, h⟩ | rfl | rfl
  · exact isBurst_clearLine h
  · exact isBurst_startLine _ _
  · exact isBurst_position ..

/-- A line advance that clears is a start-line burst at the bottom, a position and a line clear, of the window it moves to. -/
theorem wireNextLine_scroll {s : State} (h : s.printMode = .scrollLine) (l : Nat) (o : BitVec 3) :
    wireNextLine s l o.toNat = (if s.line.toNat = 7 then [wireStartLine s.cfg o.toNat] else []) ++
      wirePosition s.cfg o.toNat l s.columnOffset.toNat :: wireClearLine (s.windowAt o) l := by
  simp [wireNextLine, wireClearLine, wireSweepStart, h]

/-- A line advance that does not clear is a position. -/
theorem wireNextLine_overwrite {s : State} (h : s.printMode ≠ .scrollLine) (l o : Nat) :
    wireNextLine s l o = [wirePosition s.cfg o l s.columnOffset.toNat] := by
  cases hm : s.printMode <;> simp_all [wireNextLine]

/-- The scroll window after a line advance, as its register holds it. -/
theorem lineOffsetAfter_toNat (s : State) :
    ∃ o : BitVec 3, lineOffsetAfter s.printMode s.line.toNat s.lineOffset.toNat = o.toNat :=
  ⟨BitVec.ofNat 3 _, by simpa using (Nat.mod_eq_of_lt (lineOffsetAfter_lt s.printMode s.line.toNat s.lineOffset)).symm⟩

theorem isBurst_advance {s : State} {forced : Bool} {b : List Byte} (h : b ∈ advanceBursts forced s) : IsBurst s.cfg b := by
  obtain ⟨o, ho⟩ := lineOffsetAfter_toNat s
  rw [advanceBursts, ho] at h
  by_cases scroll : s.printMode = .scrollLine
  · rw [wireNextLine_scroll scroll] at h
    rcases List.mem_append.1 h with h | h
    · split at h
      · rw [List.mem_singleton.1 h]; exact isBurst_startLine _ _
      · simp at h
    · rcases List.mem_cons.1 h with rfl | h
      · exact isBurst_position ..
      · exact (isBurst_clearLine h :)
  · rw [wireNextLine_overwrite scroll] at h
    rw [List.mem_singleton.1 h]
    exact isBurst_position ..

theorem isBurst_glyphBursts {s : State} {code : Byte} {b : List Byte} (h : b ∈ glyphBursts code s) : IsBurst s.cfg b := by
  unfold glyphBursts at h
  split at h
  · rcases List.mem_append.1 h with h | h
    · exact isBurst_advance h
    · rw [List.mem_singleton.1 h]; exact isBurst_glyph s code
  · rw [List.mem_singleton.1 h]; exact isBurst_glyph s code

theorem isBurst_print {s : State} {code : Byte} {b : List Byte} (h : b ∈ printBursts code s) : IsBurst s.cfg b := by
  unfold printBursts at h
  split at h
  · exact isBurst_advance h
  · exact isBurst_glyphBursts h
  · simp at h

theorem isBurst_flip {c : Config} {seg scan : Byte} {b : List Byte} (h : b ∈ wireFlip c seg scan) : IsBurst c b := by
  cases hf : c.flipFraming <;> simp [wireFlip, hf] at h
  · simp [h, IsBurst, isCommandFrame]
  · rcases h with rfl | rfl <;> simp [IsBurst, isCommandFrame]

theorem isBurst_op {i : Instr} {s : State} {b : List Byte} (h : b ∈ opBursts i s) : IsBurst s.cfg b := by
  cases i with
  | printChar code => exact isBurst_print h
  | clear => exact isBurst_clear h
  | clearLine row =>
    simp only [opBursts] at h
    split at h
    · exact isBurst_clearLine h
    · simp at h
  | clearCurrentLine => exact isBurst_clearLine h
  | setCursor line column =>
    simp only [opBursts] at h
    split at h
    · rw [List.mem_singleton.1 h]; exact isBurst_position ..
    all_goals simp at h
  | home => rw [List.mem_singleton.1 h]; exact isBurst_position ..
  | setInverse flag => rw [List.mem_singleton.1 h]; exact isBurst_frameCmd s.cfg { front := [], last := _ }
  | flip flag =>
    rcases List.mem_append.1 h with h | h
    · exact isBurst_flip h
    · exact isBurst_clear h
  | _ => simp [opBursts] at h

theorem isBurst_init {s : State} {b : List Byte} (h : b ∈ initBursts s) : IsBurst s.cfg b := by
  simp only [initBursts, List.mem_append, List.mem_map, List.mem_cons] at h
  rcases h with ⟨p, -, rfl⟩ | rfl | h
  · exact isBurst_frameCmd ..
  · exact isBurst_position ..
  · exact isBurst_clear h

/-! ## Every write is a probe or a burst -/

/-- What an instruction adds to the record: probes, then bursts to the address it leaves; and whether `txerr` is set (R31). -/
structure Wrote (i : Instr) (s t : State) (probes bursts : List TxWrite) : Prop where
  tx_eq : t.tx = s.tx ++ (probes ++ bursts)
  probe : ∀ e ∈ probes, (∃ c r, i = .init c r) ∧ e.bytes = [] ∧ (e.addr = s.cfg.addrA ∨ e.addr = s.cfg.addrB) ∧
    e.timeout = s.cfg.txTimeout
  burst : ∀ e ∈ bursts, i.isHost = true ∧ e.addr = t.address ∧ IsBurst s.cfg e.bytes ∧ e.timeout = s.cfg.txTimeout
  txerr_eq : t.txerr = (s.txerr || bursts.any fun e => !e.ok)

/-- An instruction that writes nothing. -/
theorem Wrote.nothing {i : Instr} {s t : State} (hx : t.tx = s.tx) (he : t.txerr = s.txerr) : Wrote i s t [] [] :=
  ⟨by simp [hx], by simp, by simp, by simp [he]⟩

theorem InitRun.wrote {s t : State} {chip : Chip} {req : Byte} (h : InitRun s chip req t) :
    ∃ probes bursts, Wrote (.init chip req) s t probes bursts := by
  have probe {as : List Byte} (allowed : ∀ a ∈ as, a = s.cfg.addrA ∨ a = s.cfg.addrB) (e : TxWrite)
      (he : e ∈ s.probeEvents as) : (∃ c r, Instr.init chip req = .init c r) ∧ e.bytes = [] ∧
        (e.addr = s.cfg.addrA ∨ e.addr = s.cfg.addrB) ∧ e.timeout = s.cfg.txTimeout := by
    obtain ⟨mem, bytes, timeout⟩ := State.mem_probeEvents he
    exact ⟨⟨_, _, rfl⟩, bytes, allowed _ mem, timeout⟩
  cases h with
  | invalid => exact ⟨[], [], .nothing rfl rfl⟩
  | notFound h =>
    exact ⟨_, [], by simpa using s.probed_tx _, probe (probeCandidates_allowed h).1, by simp,
      by simpa using s.probed_txerr _⟩
  | @found front rest sel h e =>
    have allowed := (probeCandidates_allowed h).1
    have sent := State.found_sent chip sel (front ++ [sel]) s
    have address := State.core_address_eq (State.found_core chip sel (front ++ [sel]) s)
    refine ⟨s.probeEvents (front ++ [sel]), (s.initStart chip sel (front ++ [sel])).burstEvents (initBursts _), ?_,
      probe fun a ha => allowed a ?_, fun e he => ?_, sent.txerr_eq⟩
    · rw [sent.tx_eq, ← List.append_assoc]; rfl
    · rw [e]
      simp only [List.mem_append, List.mem_cons, List.not_mem_nil, or_false] at ha ⊢
      exact ha.imp_right .inl
    · obtain ⟨addr, mem, timeout⟩ := State.mem_burstEvents he
      exact ⟨rfl, by rw [addr, address]; rfl, (isBurst_init mem :), timeout⟩

theorem ExecRun.wrote {i : Instr} {s t : State} (h : ExecRun i s t) : ∃ probes bursts, Wrote i s t probes bursts := by
  cases h with
  | wire => exact ⟨[], [], .nothing rfl rfl⟩
  | disconnected => exact ⟨[], [], .nothing rfl rfl⟩
  | init run => exact run.wrote
  | op hi notInit hc ran =>
    refine ⟨[], s.burstEvents (opBursts i s), ran.sent.tx_eq, by simp, fun e he => ?_, ran.sent.txerr_eq⟩
    obtain ⟨addr, mem, timeout⟩ := State.mem_burstEvents he
    have address : t.address = s.address := (State.core_address_eq ran.core_eq).trans ((opRegs_frame i s).device_eq notInit).2.1
    exact ⟨hi, addr.trans address.symm, isBurst_op mem, timeout⟩

/-- Settles O14: the writes added are the probes and then the bursts. -/
theorem everyWriteIsAProbeOrOneBurst : Obligations.EveryWriteIsAProbeOrOneBurst := by
  intro i s t h
  obtain ⟨probes, bursts, wrote⟩ := (exec_run h).wrote
  refine ⟨_, wrote.tx_eq, fun e he => ?_⟩
  rcases List.mem_append.1 he with he | he
  · obtain ⟨init, bytes, addr, timeout⟩ := wrote.probe e he
    exact ⟨timeout, .inl ⟨init, bytes, addr⟩⟩
  · obtain ⟨host, addr, framed, timeout⟩ := wrote.burst e he
    exact ⟨timeout, .inr ⟨host, addr, framed⟩⟩

/-- Settles O15: a probe is empty and a burst is not, so the failed nonempty writes are the failed bursts. -/
theorem txerrRecordsFailedBurstsOnly : Obligations.TxerrRecordsFailedBurstsOnly := by
  intro i s t h
  obtain ⟨probes, bursts, wrote⟩ := (exec_run h).wrote
  refine ⟨_, wrote.tx_eq, ?_⟩
  have ofProbes : (probes.any fun e => !e.bytes.isEmpty && !e.ok) = false := by
    simp only [List.any_eq_false]
    intro e he
    simp [(wrote.probe e he).2.1]
  have ofBursts : (bursts.any fun e => !e.bytes.isEmpty && !e.ok) = bursts.any fun e => !e.ok := by
    rw [Bool.eq_iff_iff, List.any_eq_true, List.any_eq_true]
    refine exists_congr fun e => and_congr_right fun he => ?_
    simp [List.isEmpty_eq_false_iff.2 (wrote.burst e he).2.2.1.ne_nil]
  rw [wrote.txerr_eq, List.any_append, ofProbes, ofBursts, Bool.false_or]

/-! ## How many writes -/

theorem sweepBursts_le (chip : Chip) : sweepBursts chip ≤ 8 := by cases chip <;> decide

theorem wireClear_length_le (s : State) : (wireClear s).length ≤ 82 := by
  have := sweepBursts_le s.chip
  rw [wireClear_length]
  omega

theorem wireClearLine_length_le (s : State) (row : Nat) : (wireClearLine s row).length ≤ 10 := by
  have := sweepBursts_le s.chip
  rw [wireClearLine_length]
  omega

theorem advanceBursts_length_le (forced : Bool) (s : State) : (advanceBursts forced s).length ≤ 12 := by
  obtain ⟨o, ho⟩ := lineOffsetAfter_toNat s
  rw [advanceBursts, ho]
  by_cases scroll : s.printMode = .scrollLine
  · have clear := wireClearLine_length_le (s.windowAt o) (lineAfter s.printMode forced s.line.toNat)
    rw [wireNextLine_scroll scroll]
    split <;> simp <;> omega
  · simp [wireNextLine_overwrite scroll]

theorem printBursts_length_le (code : Byte) (s : State) : (printBursts code s).length ≤ 13 := by
  have natural := advanceBursts_length_le false s
  have forced := advanceBursts_length_le true s
  unfold printBursts glyphBursts
  repeat' split
  all_goals simp <;> omega

theorem wireFlip_length_le (c : Config) (seg scan : Byte) : (wireFlip c seg scan).length ≤ 2 := by
  cases h : c.flipFraming <;> simp [wireFlip, h]

theorem opBursts_length_le (i : Instr) (s : State) : (opBursts i s).length ≤ 84 := by
  have clear := wireClear_length_le s
  have clearLine := wireClearLine_length_le s
  cases i with
  | printChar code => exact (printBursts_length_le code s).trans (by decide)
  | clear => exact clear.trans (by decide)
  | clearLine row =>
    simp only [opBursts]
    split
    · exact (clearLine _).trans (by decide)
    · simp
  | clearCurrentLine => exact (clearLine _).trans (by decide)
  | setCursor line column => simp only [opBursts]; split <;> simp
  | flip flag =>
    have flip := wireFlip_length_le s.cfg (flipOpcodes s.cfg (boolOperand flag)).1 (flipOpcodes s.cfg (boolOperand flag)).2
    simp only [opBursts, List.length_append]
    omega
  | _ => simp [opBursts]

theorem initBursts_length (s : State) :
    (initBursts s).length = (powerOnBursts s.cfg s.chip).length + (1 + (wireClear s).length) := by
  simp [initBursts, Nat.add_comm]

/-- How many writes an INIT has made after a successful probe. -/
theorem State.found_length (chip : Chip) (sel : Byte) (as : List Byte) (s : State) :
    ((s.probed as).initConnected chip sel).tx.length =
      s.tx.length + (as.length + (powerOnBursts s.cfg chip).length + (1 + (wireClear (s.initStart chip sel as)).length)) := by
  rw [(found_sent chip sel as s).tx_length, initBursts_length]
  simp [initStart]
  omega

theorem InitRun.length_le {s t : State} {chip : Chip} {req : Byte} (h : InitRun s chip req t) :
    t.tx.length ≤ s.tx.length + (2 + (powerOnBursts s.cfg chip).length + 1 + 82) := by
  cases h with
  | invalid => simp
  | notFound h =>
    have := (probeCandidates_allowed h).2
    simp [State.probed_tx]
    omega
  | @found front rest sel h e =>
    have probes := (probeCandidates_allowed h).2
    have clear := wireClear_length_le (s.initStart chip sel (front ++ [sel]))
    rw [e] at probes
    rw [State.found_length]
    simp at probes ⊢
    omega

/-- Settles O17: a clear is at most 82 bursts, and no operation writes more than a flip and a clear. -/
theorem writesAreBounded : Obligations.WritesAreBounded := by
  intro i s t h
  cases exec_run h with
  | wire hi => exact ⟨fun c r e => by simp [e, Instr.isHost] at hi, fun _ => by simp⟩
  | disconnected _ notInit => exact ⟨fun c r e => absurd e (notInit c r), fun _ => by simp⟩
  | op _ notInit _ ran =>
    refine ⟨fun c r e => absurd e (notInit c r), fun _ => ?_⟩
    rw [ran.sent.tx_length]
    exact Nat.add_le_add_left (opBursts_length_le i s) _
  | init run =>
    refine ⟨fun c r e => ?_, fun notInit => absurd rfl (notInit _ _)⟩
    cases e
    exact run.length_le

/-! ## The answers reach nothing but `txerr` (decision D20) -/

theorem glyphRegs_core (s : State) : (glyphRegs s.core).core = (glyphRegs s).core := by
  unfold glyphRegs
  rw [State.core_column]
  split <;> rfl

theorem printRegs_core (code : Byte) (s : State) : (printRegs code s.core).core = (printRegs code s).core := by
  unfold printRegs
  cases charClass code with
  | newline => rfl
  | printable => exact glyphRegs_core s
  | ignored => rfl

/-- The registers an operation leaves depend on the registers alone. -/
theorem opRegs_core (i : Instr) (s : State) : (opRegs i s.core).core = (opRegs i s).core := by
  cases i with
  | printChar code => exact printRegs_core code s
  | clearLine row => simp only [opRegs]; cases lineOperand row <;> rfl
  | setCursor line column => simp only [opRegs]; cases lineOperand line <;> cases columnOperand column <;> rfl
  | setDisplayColumnOffset n => simp only [opRegs]; cases offsetOperand n <;> rfl
  | _ => rfl

/-- The bursts an operation writes depend on the registers alone. -/
theorem opBursts_core (i : Instr) (s : State) : opBursts i s.core = opBursts i s := by
  cases i <;> rfl

theorem burstEvents_map (s : State) (bs : List (List Byte)) :
    (s.burstEvents bs).map (fun e => (e.addr, e.bytes, e.timeout)) = bs.map fun b => (s.address, b, s.cfg.txTimeout) := by
  apply List.ext_getElem <;> simp [State.burstEvents]

/-- Settles O18: the registers an operation leaves and the bursts it writes are functions of the registers, and an answer only
goes into the record, the controller and `txerr`. -/
theorem answersChangeOnlyTxerr : Obligations.AnswersChangeOnlyTxerr := by
  intro i s₁ s₂ t₁ t₂ notInit same h₁ h₂
  have quiet {s t : State} (e : t.tx = s.tx) : t.tx = s.tx ++ [] := by simp [e]
  have connected := State.core_connected_eq same
  cases exec_run h₁ with
  | wire hi =>
    obtain rfl := Host.Outcome.next.inj ((exec_wire hi s₂).symm.trans h₂)
    exact ⟨same, [], [], quiet rfl, quiet rfl, rfl⟩
  | disconnected hi _ hc =>
    rw [exec_disconnected hi notInit (connected ▸ hc)] at h₂
    obtain rfl := Host.Outcome.next.inj h₂
    exact ⟨same, [], [], quiet rfl, quiet rfl, rfl⟩
  | op hi _ hc ran₁ =>
    obtain ⟨u, e, ran₂⟩ := exec_ran hi notInit (connected ▸ hc : s₂.connected = true)
    obtain rfl := Host.Outcome.next.inj (e.symm.trans h₂)
    have regs : (opRegs i s₁).core = (opRegs i s₂).core := by rw [← opRegs_core, same, opRegs_core]
    have bursts : opBursts i s₁ = opBursts i s₂ := by rw [← opBursts_core, same, opBursts_core]
    refine ⟨ran₁.core_eq.trans (regs.trans ran₂.core_eq.symm), _, _, ran₁.sent.tx_eq, ran₂.sent.tx_eq, ?_⟩
    rw [burstEvents_map, burstEvents_map, bursts, State.core_address_eq same, State.core_cfg_eq same]
  | init => exact absurd rfl (notInit _ _)

/-- Settles O48: every procedure feeds the controller what it writes (`Fed`). -/
theorem controllerReceivesExactlyTheWrites : Obligations.ControllerReceivesExactlyTheWrites := by
  intro i s t hi notInit h
  rcases exec_ran_gated hi notInit h with ⟨-, ran⟩ | ⟨-, rfl⟩
  · exact ran.fed.fed
  · exact (Fed.refl t).fed

/-- Every instruction answers a next state (R183). -/
theorem exec_next (i : Instr) (s : State) : ∃ t, exec i s = .next t := by
  cases i <;> exact ⟨_, rfl⟩

end Sys2Proof.Machine
end

section
/-! PROOF. The step (20_memory.md R50): what it does with each event, said once (`step_op`, `step_reset`, …), and the statements
about single events: the presented instruction, illegal words, resets, the other agents on the bus. -/

namespace Sys2Proof.Machine

/-! ## One lemma per event -/

section Events

variable {s : State} {rest : List PortEvent}

theorem step_idle (h : s.inputs = []) : step s = .next s := by simp [step, fetch, h]

theorem step_op {w : HostWord} {i : Instr} (h : s.inputs = .op w :: rest) (hd : decodeHost w = .ok i) :
    step s = exec i { s with inputs := rest } := by
  simp [step, fetch, h, hd]

theorem step_illegal {w : HostWord} {e : DecodeError} (h : s.inputs = .op w :: rest) (hd : decodeHost w = .error e) :
    step s = .next { s with inputs := rest } := by
  simp [step, fetch, h, hd]

theorem step_reset (h : s.inputs = .reset :: rest) : step s = .next (State.blockReset { s with inputs := rest }) := by
  simp [step, fetch, h]

theorem step_opReset {w : HostWord} {k : Nat} {i : Instr} {u : State} (h : s.inputs = .opReset w k :: rest)
    (hd : decodeHost w = .ok i) (hu : exec i { s with inputs := rest } = .next u) :
    step s = .next (State.cutShort { s with inputs := rest } k u) := by
  simp [step, fetch, h, hd, hu, resetOutcome]

theorem step_opReset_illegal {w : HostWord} {k : Nat} {e : DecodeError} (h : s.inputs = .opReset w k :: rest)
    (hd : decodeHost w = .error e) : step s = .next (State.blockReset { s with inputs := rest }) := by
  simp [step, fetch, h, hd]

theorem step_busByte {b : Byte} {i : Instr} (h : s.inputs = .busByte b :: rest)
    (hd : decodeWire s.cfg s.panel.phase b = .ok i) : step s = exec i { s with inputs := rest } := by
  simp [step, fetch, h, hd]

theorem step_strayByte {b : Byte} {e : DecodeError} (h : s.inputs = .busByte b :: rest)
    (hd : decodeWire s.cfg s.panel.phase b = .error e) : step s = .next (State.strayByte b { s with inputs := rest }) := by
  simp [step, fetch, h, hd]

theorem step_busStop (h : s.inputs = .busStop :: rest) : step s = .next (State.busStop { s with inputs := rest }) := by
  simp [step, fetch, h]

theorem step_controllerReset (h : s.inputs = .controllerReset :: rest) :
    step s = .next (State.controllerReset { s with inputs := rest }) := by
  simp [step, fetch, h]

end Events

/-- What a step does, by the event it takes. -/
inductive StepRun (s : State) : State → Prop
  | idle : StepRun s s
  | taken (rest : List PortEvent) : StepRun s { s with inputs := rest }
  | reset (rest : List PortEvent) : StepRun s (State.blockReset { s with inputs := rest })
  | exec {i : Instr} {t : State} (rest : List PortEvent) (h : exec i { s with inputs := rest } = .next t) : StepRun s t
  | cutShort {i : Instr} {u : State} (rest : List PortEvent) (k : Nat) (h : Machine.exec i { s with inputs := rest } = .next u) :
    StepRun s (State.cutShort { s with inputs := rest } k u)
  | strayByte (rest : List PortEvent) (b : Byte) : StepRun s (State.strayByte b { s with inputs := rest })
  | busStop (rest : List PortEvent) : StepRun s (State.busStop { s with inputs := rest })
  | controllerReset (rest : List PortEvent) : StepRun s (State.controllerReset { s with inputs := rest })

/-- Every step is one of these. -/
theorem exists_stepRun (s : State) : ∃ t, step s = .next t ∧ StepRun s t := by
  cases h : s.inputs with
  | nil => exact ⟨_, step_idle h, .idle⟩
  | cons event rest =>
    cases event with
    | op w =>
      cases hd : decodeHost w with
      | ok i =>
        obtain ⟨t, ht⟩ := exec_next i { s with inputs := rest }
        exact ⟨t, (step_op h hd).trans ht, .exec rest ht⟩
      | error e => exact ⟨_, step_illegal h hd, .taken rest⟩
    | reset => exact ⟨_, step_reset h, .reset rest⟩
    | opReset w k =>
      cases hd : decodeHost w with
      | ok i =>
        obtain ⟨u, hu⟩ := exec_next i { s with inputs := rest }
        exact ⟨_, step_opReset h hd hu, .cutShort rest k hu⟩
      | error e => exact ⟨_, step_opReset_illegal h hd, .reset rest⟩
    | busByte b =>
      cases hd : decodeWire s.cfg s.panel.phase b with
      | ok i =>
        obtain ⟨t, ht⟩ := exec_next i { s with inputs := rest }
        exact ⟨t, (step_busByte h hd).trans ht, .exec rest ht⟩
      | error e => exact ⟨_, step_strayByte h hd, .strayByte rest b⟩
    | busStop => exact ⟨_, step_busStop h, .busStop rest⟩
    | controllerReset => exact ⟨_, step_controllerReset h, .controllerReset rest⟩

theorem step_run {s t : State} (h : step s = .next t) : StepRun s t := by
  obtain ⟨u, e, run⟩ := exists_stepRun s
  obtain rfl := Host.Outcome.next.inj (e.symm.trans h)
  exact run

/-! ## The statements about single events -/

/-- Settles O5. -/
theorem stepRunsThePresentedInstruction : Obligations.StepRunsThePresentedInstruction :=
  ⟨fun _ _ _ _ h hd => step_op h hd, fun _ _ _ _ h hd => step_busByte h hd⟩

/-- Settles O6. -/
theorem nothingPresentedNothingHappens : Obligations.NothingPresentedNothingHappens := fun _ => step_idle

/-- Settles O7. -/
theorem illegalWordHasNoEffect : Obligations.IllegalWordHasNoEffect := fun _ _ _ _ h hd => step_illegal h hd

/-- Settles O8: each event's outcome is a next state, an instruction's among them. -/
theorem nothingTrapsOrHangs : Obligations.NothingTrapsOrHangs :=
  ⟨exec_next, fun s => (exists_stepRun s).imp fun _ h => h.1⟩

/-- Settles O9. -/
theorem resetValues : Obligations.ResetValues := by
  rintro c s rfl
  exact ⟨rfl, rfl, rfl, rfl, rfl, rfl, rfl, rfl, rfl, rfl, rfl⟩

/-- Settles O10. -/
theorem resetEventClearsTheBlockOnly : Obligations.ResetEventClearsTheBlockOnly :=
  fun _ _ h => ⟨_, step_reset h, rfl, rfl, rfl, rfl, rfl⟩

/-- Settles O58: the three events act on the controller alone. -/
theorem busEventsLeaveTheBlock : Obligations.BusEventsLeaveTheBlock :=
  ⟨fun _ _ _ _ h hd => ⟨_, step_strayByte h hd⟩, fun _ _ h => step_busStop h, fun _ _ h => ⟨_, step_controllerReset h⟩⟩

/-- Settles O44: a wire byte is its effect on the controller. -/
theorem wireOpcodesSetTheirRegister : Obligations.WireOpcodesSetTheirRegister := by
  rintro s page nibble value p rfl
  exact ⟨exec_wire rfl s, exec_wire rfl s, exec_wire rfl s, exec_wire rfl s, exec_wire rfl s, exec_wire rfl s,
    exec_wire rfl s, exec_wire rfl s, exec_wire rfl s, exec_wire rfl s⟩

/-- Settles O45: likewise for the control bytes. -/
theorem controlBytesSayWhatFollows : Obligations.ControlBytesSayWhatFollows :=
  fun s => ⟨exec_wire rfl s, exec_wire rfl s, exec_wire rfl s, rfl, rfl⟩

end Sys2Proof.Machine
end

section
/-! PROOF. The invariant of 10_state.md R34. The display RAM keeps its canonical form whatever the controller receives; the
registers keep theirs through every operation; so every step keeps both. -/

namespace Sys2Proof.Machine

/-! ## The display RAM -/

/-- The part of the invariant about the display RAM: canonical form, and only bytes that exist (R56). -/
structure Memory.Sound (m : Memory) : Prop where
  wf : m.wf
  exist : ∀ x ∈ m, x.1 < 8 * 256 ∧ x.1 % 256 < 132

theorem Memory.sound_nil : Memory.Sound [] := ⟨Memory.wf_nil, by simp⟩

theorem Memory.Sound.write {m : Memory} (h : m.Sound) (page : BitVec 3) {column : BitVec 8} (hc : column.toNat < 132)
    (b : Byte) : (m.write (ramAddress page column) b).Sound := by
  refine ⟨Memory.write_wf m _ b h.wf, fun x hx => ?_⟩
  rcases Memory.mem_write m _ b x hx with rfl | old
  · have := page.isLt
    simp only [ramAddress]
    omega
  · exact h.exist x old

theorem chipWidth_le (chip : Chip) : chipWidth chip ≤ 132 := by cases chip <;> decide

/-- No wire instruction stores anything. -/
@[simp] theorem wireEffect_ram (i : Instr) (p : Panel) : (wireEffect i p).ram = p.ram := by
  cases i <;> rfl

section Receiving

variable {c : Config} {width : Nat} (hw : width ≤ 132) {p : Panel} (h : p.ram.Sound)

include hw h

theorem Panel.dataByte_sound (b : Byte) : (p.dataByte width b).ram.Sound := by
  unfold Panel.dataByte
  split
  · exact h.write p.page (by omega) b
  · exact Memory.sound_nil

theorem Panel.otherByte_sound (b : Byte) : (p.otherByte width b).ram.Sound := by
  unfold Panel.otherByte
  split
  · exact Panel.dataByte_sound hw h b
  all_goals exact Memory.sound_nil

theorem Panel.receive_sound (b : Byte) : (p.receive c width b).ram.Sound := by
  unfold Panel.receive
  split
  · simpa using h
  · exact Panel.otherByte_sound hw h b

theorem Panel.deliver_sound (bytes : List Byte) : (p.deliver c width bytes).ram.Sound :=
  List.foldlRecOn (motive := fun q => q.ram.Sound) bytes (Panel.receive c width)
    (show (p.atPhase .control).ram.Sound from h) fun _ hq b _ => Panel.receive_sound hw hq b

theorem Panel.feed_sound (e : TxWrite) : (p.feed c width e).ram.Sound := by
  unfold Panel.feed Panel.arrive
  split
  · exact Panel.deliver_sound hw h e.bytes
  · split
    · exact h
    · exact Memory.sound_nil

theorem Panel.feedAll_sound (es : List TxWrite) : (es.foldl (Panel.feed c width) p).ram.Sound :=
  List.foldlRecOn (motive := fun q => q.ram.Sound) es (Panel.feed c width) h fun _ hq e _ => Panel.feed_sound hw hq e

omit hw

theorem Panel.powerOnByte_sound (x : PowerOnByte) : (p.powerOnByte c x).ram.Sound := by
  unfold Panel.powerOnByte
  repeat' split
  · exact Memory.sound_nil
  · simpa using h
  · exact Memory.sound_nil

theorem Panel.feedPowerOn_sound (x : PowerOnBurst × TxWrite) : (p.feedPowerOn c x).ram.Sound := by
  unfold Panel.feedPowerOn Panel.arrivePowerOn
  split
  · exact List.foldlRecOn (motive := fun q => q.ram.Sound) _ (Panel.powerOnByte c) h fun _ hq y _ => Panel.powerOnByte_sound hq y
  · exact Memory.sound_nil

theorem Panel.feedPowerOnAll_sound (xs : List (PowerOnBurst × TxWrite)) : (xs.foldl (Panel.feedPowerOn c) p).ram.Sound :=
  List.foldlRecOn (motive := fun q => q.ram.Sound) xs (Panel.feedPowerOn c) h fun _ hq x _ => Panel.feedPowerOn_sound hq x

/-- The writes of an operation that a reset ended. -/
theorem Panel.afterWrites_sound (chip : Chip) (made : List TxWrite) : (p.afterWrites c chip made).ram.Sound := by
  unfold Panel.afterWrites Panel.afterInit
  split
  · exact Panel.feedAll_sound (chipWidth_le chip)
      (Panel.feedPowerOnAll_sound (Panel.feedAll_sound (chipWidth_le chip) h _) _) _
  · exact Panel.feedAll_sound (chipWidth_le chip) h _

end Receiving

theorem Fed.sound {s t : State} (f : Fed s t) (h : s.panel.ram.Sound) : t.panel.ram.Sound := by
  obtain ⟨-, -, evs, -, panel⟩ := f
  rw [panel]
  exact Panel.feedAll_sound (chipWidth_le s.chip) h evs

/-- Whatever an instruction sends the controller, its RAM stays sound. -/
theorem exec_sound {i : Instr} {s t : State} (h : exec i s = .next t) (hs : s.panel.ram.Sound) : t.panel.ram.Sound := by
  cases exec_run h with
  | wire => simpa using hs
  | disconnected => exact hs
  | op _ _ _ ran => exact ran.fed.sound hs
  | @init _ _ chip req _ =>
    obtain ⟨probes, powerOn, others, -, -, -, panel⟩ := State.initBody_writes chip req s
    obtain rfl : s.initBody chip req = t := Host.Outcome.next.inj h
    rw [panel]
    exact Panel.feedAll_sound (chipWidth_le chip) (Panel.feedPowerOnAll_sound (Panel.feedAll_sound (chipWidth_le chip) hs _) _) _

/-! ## The registers -/

/-- The part of the invariant about the registers (R34). -/
structure State.RegsInv (s : State) : Prop where
  column_le : s.column.toNat ≤ 16
  offset_zero : s.connected = true → s.chip = .ssd1306 → s.columnOffset = 0
  address_known : s.connected = true → s.address = s.cfg.addrA ∨ s.address = s.cfg.addrB

theorem State.inv_iff (s : State) : s.Inv ↔ s.RegsInv ∧ s.panel.ram.Sound :=
  ⟨fun ⟨h1, h2, h3, h4, h5⟩ => ⟨⟨h1, h2, h3⟩, h4, h5⟩, fun ⟨⟨h1, h2, h3⟩, h4, h5⟩ => ⟨h1, h2, h3, h4, h5⟩⟩

theorem State.RegsInv.of_core {s t : State} (h : s.RegsInv) (e : t.core = s.core) : t.RegsInv := by
  obtain ⟨chip, address, connected, -, column, -, columnOffset, -, -, -, cfg, -⟩ := State.core_fields e
  obtain ⟨h1, h2, h3⟩ := h
  exact ⟨by rwa [column], by rwa [connected, chip, columnOffset], by rwa [connected, address, cfg]⟩

/-- A disconnected block with a column in range. -/
theorem State.RegsInv.of_disconnected {s : State} (h : s.connected = false) (hc : s.column.toNat ≤ 16) : s.RegsInv :=
  ⟨hc, by simp [h], by simp [h]⟩

theorem glyphRegs_column_le (s : State) : (glyphRegs s).column.toNat ≤ 16 := by
  unfold glyphRegs
  split
  · simp
  · simp [BitVec.toNat_add]; omega

theorem printRegs_column_le (code : Byte) {s : State} (h : s.column.toNat ≤ 16) : (printRegs code s).column.toNat ≤ 16 := by
  unfold printRegs
  cases charClass code with
  | newline => simp
  | printable => exact glyphRegs_column_le s
  | ignored => exact h

/-- (I-b): no operation leaves a column past 16. -/
theorem opRegs_column_le (i : Instr) {s : State} (h : s.column.toNat ≤ 16) : (opRegs i s).column.toNat ≤ 16 := by
  cases i with
  | printChar code => exact printRegs_column_le code h
  | clearLine row => simp only [opRegs]; split <;> simp [h]
  | setCursor line column =>
    simp only [opRegs]
    split
    case h_1 l c _ _ => have := c.isLt; simp; omega
    all_goals exact h
  | setDisplayColumnOffset n => simp only [opRegs]; split <;> exact h
  | _ => simp [opRegs, State.homed, h]

/-- (I-e): no operation gives an SSD1306 a column offset. -/
theorem opRegs_offset_zero {i : Instr} {s : State} (notInit : ∀ c r, i ≠ .init c r) (hk : s.chip = .ssd1306)
    (h : s.columnOffset = 0) : (opRegs i s).columnOffset = 0 := by
  by_cases setOffset : ∃ n, i = .setDisplayColumnOffset n
  · obtain ⟨n, rfl⟩ := setOffset
    simp only [opRegs]
    split <;> simp [hk, h]
  · exact ((opRegs_frame i s).columnOffset_eq notInit fun n e => setOffset ⟨n, e⟩).trans h

theorem InitRun.regsInv {s t : State} {chip : Chip} {req : Byte} (run : InitRun s chip req t) (h : s.RegsInv) : t.RegsInv := by
  cases run with
  | invalid => exact .of_disconnected rfl h.column_le
  | notFound =>
    have regs := State.core_fields (s.probed_core (probeCandidates s.cfg req))
    exact .of_disconnected (by simp [regs]) (by simpa [regs] using h.column_le)
  | @found front rest sel allowed e =>
    have known := (probeCandidates_allowed allowed).1 sel (by simp [e])
    refine State.RegsInv.of_core ?_ (State.found_core chip sel _ s)
    exact ⟨by simp [State.homed], fun _ hk => by simp_all [State.homed, State.initStart], fun _ => known⟩

theorem exec_regsInv {i : Instr} {s t : State} (h : exec i s = .next t) (hs : s.RegsInv) : t.RegsInv := by
  cases exec_run h with
  | wire => exact hs.of_core rfl
  | disconnected => exact hs
  | init run => exact run.regsInv hs
  | op _ notInit hc ran =>
    obtain ⟨chip, address, connected, -⟩ := (opRegs_frame i s).device_eq notInit
    have cfg := (opRegs_frame i s).cfg_eq
    refine State.RegsInv.of_core ⟨opRegs_column_le i hs.column_le, fun _ hk => ?_, fun _ => ?_⟩ ran.core_eq
    · exact opRegs_offset_zero notInit (chip ▸ hk) (hs.offset_zero hc (chip ▸ hk))
    · rw [address, cfg]; exact hs.address_known hc

/-! ## The obligations -/

theorem State.Inv.exec {i : Instr} {s t : State} (hs : s.Inv) (h : exec i s = .next t) : t.Inv := by
  rw [State.inv_iff] at hs ⊢
  exact ⟨exec_regsInv h hs.1, exec_sound h hs.2⟩

/-- The invariant does not speak of the events to come. -/
theorem State.Inv.inputs {s : State} (h : s.Inv) (rest : List PortEvent) : State.Inv { s with inputs := rest } :=
  ⟨h.column_le, h.offset_zero, h.address_known, h.ram_wf, h.ram_exists⟩

/-- A change of the controller that leaves its RAM sound. -/
theorem State.Inv.panel {s : State} (h : s.Inv) {p : Panel} (hp : p.ram.Sound) : State.Inv { s with panel := p } :=
  ⟨h.column_le, h.offset_zero, h.address_known, hp.wf, hp.exist⟩

/-- Reset registers with a sound display. -/
theorem State.Inv.of_reset {s : State} (c : Config) (regs : s.core = ({ State.resetWith c with inputs := s.inputs } : State).core)
    (h : s.panel.ram.Sound) : s.Inv := by
  have reset : State.RegsInv { State.resetWith c with inputs := s.inputs } := .of_disconnected rfl (Nat.zero_le 16)
  exact (State.inv_iff s).2 ⟨reset.of_core regs, h⟩

/-- Settles O11. -/
theorem invariantHoldsAtReset : Obligations.InvariantHoldsAtReset :=
  fun c => State.Inv.of_reset c rfl Memory.sound_nil

/-- Settles O12: an instruction keeps the invariant, a reset establishes it for the registers, and nothing the controller
receives unsettles its RAM. -/
theorem everyStepKeepsTheInvariant : Obligations.EveryStepKeepsTheInvariant := by
  intro s t hs h
  have sound := ((State.inv_iff s).1 hs).2
  cases step_run h with
  | idle => exact hs
  | taken rest => exact hs.inputs rest
  | reset rest => exact .of_reset s.cfg rfl sound
  | exec rest run => exact (hs.inputs rest).exec run
  | cutShort rest k run => exact .of_reset s.cfg rfl (Panel.afterWrites_sound sound _ _)
  | strayByte rest b => exact (hs.inputs rest).panel (Panel.otherByte_sound (chipWidth_le _) sound b)
  | busStop rest => exact (hs.inputs rest).panel sound
  | controllerReset rest => exact (hs.inputs rest).panel Memory.sound_nil

end Sys2Proof.Machine
end

section
/-! PROOF. A reset during an operation (70_reset_and_hazards.md R200, log entry 12): the first writes of the operation, and the
controller as they leave it. -/

namespace Sys2Proof.Machine

/-- What a host operation but INIT writes, no write of it empty, and the controller that has received it. -/
theorem exec_received {i : Instr} {s u : State} (hi : i.isHost = true) (notInit : ∀ c r, i ≠ .init c r)
    (h : exec i s = .next u) : u.chip = s.chip ∧ ∃ evs, u.tx = s.tx ++ evs ∧ (∀ e ∈ evs, e.bytes ≠ []) ∧
      u.panel = evs.foldl (Panel.feed s.cfg (chipWidth s.chip)) s.panel := by
  rcases exec_ran_gated hi notInit h with ⟨-, ran⟩ | ⟨-, rfl⟩
  · obtain ⟨-, chip, evs, tx, panel⟩ := ran.fed
    obtain rfl : evs = s.burstEvents (opBursts i s) := List.append_cancel_left (tx.symm.trans ran.sent.tx_eq)
    exact ⟨chip, _, tx, fun e he => (isBurst_op (State.mem_burstEvents he).2.1).ne_nil, panel⟩
  · exact ⟨rfl, [], by simp, by simp, rfl⟩

/-- A probe reaches a controller of any width alike. -/
theorem Panel.feed_probes_width (c : Config) (w w' : Nat) {probes : List TxWrite} (h : ∀ e ∈ probes, e.bytes = []) (p : Panel) :
    probes.foldl (Panel.feed c w) p = probes.foldl (Panel.feed c w') p := by
  induction probes generalizing p with
  | nil => rfl
  | cons e es ih =>
    have first : p.feed c w e = p.feed c w' e := by simp [Panel.feed, h e (List.mem_cons_self ..)]
    rw [List.foldl_cons, List.foldl_cons, first, ih fun x hx => h x (List.mem_cons_of_mem _ hx)]

/-- The controller after all writes of an INIT that got no further than its probes, said for another chip. -/
theorem Panel.afterWrites_probes {c : Config} (chip chip' : Chip) {probes : List TxWrite} (h : ∀ e ∈ probes, e.bytes = [])
    (p : Panel) : p.afterWrites c chip' probes = probes.foldl (Panel.feed c (chipWidth chip)) p := by
  have only : InitWrites c chip' probes [] [] := ⟨h, by simp, by simp, by simp, by simp⟩
  have all := Panel.afterWrites_init only p
  simp only [List.append_nil, List.zip_nil_right, List.foldl_nil] at all
  rw [all, Panel.feed_probes_width c _ (chipWidth chip) h]

/-- The controller after the first writes of an INIT, whose chip register may still be the old one. -/
theorem Panel.afterWrites_initBody {c : Config} {chip chip' : Chip} {probes powerOn others : List TxWrite}
    (h : InitWrites c chip probes powerOn others) (hk : powerOn ++ others ≠ [] → chip' = chip) (p : Panel) :
    p.afterWrites c chip' (probes ++ (powerOn ++ others)) =
      others.foldl (Panel.feed c (chipWidth chip))
        (((powerOnBursts c chip).zip powerOn).foldl (Panel.feedPowerOn c)
          (probes.foldl (Panel.feed c (chipWidth chip)) p)) := by
  by_cases none : powerOn ++ others = []
  · obtain ⟨rfl, rfl⟩ := List.append_eq_nil_iff.1 none
    simpa using Panel.afterWrites_probes chip chip' h.probes_empty p
  · rw [hk none]
    exact Panel.afterWrites_init h p

/-- What O59 asks of the writes `made` of an INIT and of the controller `q` they leave. -/
def InitMade (c : Config) (chip : Chip) (made : List TxWrite) (p q : Panel) : Prop :=
  ∃ probes powerOn others : List TxWrite, made = probes ++ powerOn ++ others ∧ (∀ e ∈ probes, e.bytes = []) ∧
    powerOn.map TxWrite.bytes = ((powerOnBursts c chip).take powerOn.length).map (fun b => frameCmd c b.toCmd) ∧
    (others ≠ [] → powerOn.length = (powerOnBursts c chip).length) ∧
    q = others.foldl (Panel.feed c (chipWidth chip))
      (((powerOnBursts c chip).zip powerOn).foldl (Panel.feedPowerOn c) (probes.foldl (Panel.feed c (chipWidth chip)) p))

/-- The first `k` writes of an INIT, and the controller after them. -/
theorem State.cutShort_init (chip : Chip) (req : Byte) (s : State) (k : Nat) :
    ∃ evs, (s.initBody chip req).tx = s.tx ++ evs ∧
      (evs.length ≤ k → (s.cutShort k (s.initBody chip req)).panel = (s.initBody chip req).panel) ∧
      InitMade s.cfg chip (evs.take k) s.panel (s.cutShort k (s.initBody chip req)).panel := by
  obtain ⟨probes, powerOn, others, tx, writes, newChip, panel⟩ := initBody_writes chip req s
  have cut := (cutShort_writes tx k).2.2
  have first := writes.take k
  have takes : (probes ++ (powerOn ++ others)).take k =
      probes.take k ++ (powerOn.take (k - probes.length) ++ others.take (k - probes.length - powerOn.length)) := by
    rw [List.take_append, List.take_append]
  have madeChip (h : powerOn.take (k - probes.length) ++ others.take (k - probes.length - powerOn.length) ≠ []) :
      (s.initBody chip req).chip = chip :=
    newChip fun none => h (by obtain ⟨rfl, rfl⟩ := List.append_eq_nil_iff.1 none; simp)
  refine ⟨_, tx, fun all => ?_, _, _, _, by rw [takes, List.append_assoc], first.probes_empty, first.of_table, first.whole, ?_⟩
  · rw [cut, List.take_of_length_le all, Panel.afterWrites_initBody writes newChip, panel]
  · rw [cut, takes, Panel.afterWrites_initBody first madeChip]

/-- The first `k` writes of another operation, and the controller after them. -/
theorem State.cutShort_op {i : Instr} {s u : State} (hi : i.isHost = true) (notInit : ∀ c r, i ≠ .init c r)
    (h : exec i s = .next u) (k : Nat) : ∃ evs, u.tx = s.tx ++ evs ∧ (evs.length ≤ k → (s.cutShort k u).panel = u.panel) ∧
      (s.cutShort k u).panel = (evs.take k).foldl (Panel.feed s.cfg (chipWidth s.chip)) s.panel := by
  obtain ⟨chip, evs, tx, nonempty, panel⟩ := exec_received hi notInit h
  have made : (s.cutShort k u).panel = (evs.take k).foldl (Panel.feed s.cfg (chipWidth s.chip)) s.panel := by
    rw [(cutShort_writes tx k).2.2, Panel.afterWrites_bursts fun e he => nonempty e (List.mem_of_mem_take he), chip]
  exact ⟨evs, tx, fun all => by rw [made, List.take_of_length_le all, panel], made⟩

/-- Settles O59: the record is cut at `k`, and the controller is what the first `k` writes make of it, an INIT's told apart by the
power-on table. -/
theorem resetEndsTheOperationInProgress : Obligations.ResetEndsTheOperationInProgress := by
  refine ⟨fun s u w k rest i h hd hu => ?_, fun s w k rest e h hd => ⟨_, step_opReset_illegal h hd, rfl, rfl, rfl, rfl, rfl⟩⟩
  have host := (encode_decodeHost s.cfg hd).1
  have cut {evs : List TxWrite} (tx : u.tx = s.tx ++ evs) :
      (State.cutShort { s with inputs := rest } k u).tx = s.tx ++ evs.take k ∧
      (State.cutShort { s with inputs := rest } k u).answers = s.answers.drop (min k evs.length) := by
    obtain ⟨cutTx, cutAnswers, -⟩ := State.cutShort_writes (s := { s with inputs := rest }) tx k
    exact ⟨cutTx, by rw [cutAnswers, List.length_take]⟩
  by_cases isInit : ∃ c r, i = .init c r
  · obtain ⟨chip, req, rfl⟩ := isInit
    obtain rfl : State.initBody chip req { s with inputs := rest } = u := Host.Outcome.next.inj hu
    obtain ⟨evs, tx, all, made⟩ := State.cutShort_init chip req { s with inputs := rest } k
    refine ⟨_, evs, step_opReset h hd hu, State.cutShort_core _ _ _, rfl, tx, (cut tx).1, (cut tx).2, all,
      fun n => absurd rfl (n _ _), fun c r same => ?_⟩
    cases same
    exact made
  · have notInit : ∀ c r, i ≠ .init c r := fun c r e => isInit ⟨c, r, e⟩
    obtain ⟨evs, tx, all, made⟩ := State.cutShort_op host notInit hu k
    exact ⟨_, evs, step_opReset h hd hu, State.cutShort_core _ _ _, rfl, tx, (cut tx).1, (cut tx).2, all, fun _ => made,
      fun c r same => absurd same (notInit c r)⟩

end Sys2Proof.Machine
end

section
/-! PROOF. The result of each host operation but INIT (40_cursor_engine.md, 41_command_encoder.md, 42_facade.md): its registers and
its bursts, read off from `opRegs` and `opBursts`. -/

namespace Sys2Proof.Machine

/-- A connected block's operation, its registers and bursts given as the spec writes them. -/
theorem exec_result {i : Instr} {s r : State} {bs : List (List Byte)} (hi : i.isHost = true) (notInit : ∀ c r, i ≠ .init c r)
    (hc : s.connected = true) (regs : opRegs i s = r) (bursts : opBursts i s = bs) :
    ∃ t, exec i s = .next t ∧ t.core = r.core ∧ Sent s t bs := by
  obtain ⟨t, e, ran⟩ := exec_ran hi notInit hc
  exact ⟨t, e, regs ▸ ran.core_eq, bursts ▸ ran.sent⟩

/-- A connected block runs the body behind the gate (R186). -/
theorem run_connected {s : State} (hc : s.connected = true) (body : State → State) :
    Host.Outcome.next (ρ := Refusal) (φ := Fault) (s.gated body) = .next (body s) :=
  congrArg Host.Outcome.next (State.gated_connected hc body)

/-! ## Positioning and clearing -/

/-- A column in range, widened to the column register. -/
theorem column_register {n : Nat} (h : n < 16) : (BitVec.ofNat 4 n).zeroExtend 5 = BitVec.ofNat 5 n := by
  apply BitVec.eq_of_toNat_eq
  simp
  omega

/-- Settles O24. -/
theorem setCursorResult : Obligations.SetCursorResult := by
  intro s l c hc
  refine ⟨fun ⟨hl, hk⟩ => ?_, fun out => ?_⟩
  · have line : lineOperand l = some (BitVec.ofNat 3 l.toNat) := by simp [lineOperand_eq, hl]
    have column : columnOperand c = some (BitVec.ofNat 4 c.toNat) := by simp [columnOperand_eq, hk]
    obtain ⟨t, e, core, sent⟩ := exec_result (i := .setCursor l c)
      (r := { s with line := BitVec.ofNat 3 l.toNat, column := BitVec.ofNat 5 c.toNat })
      (bs := [wirePosition s.cfg s.lineOffset.toNat l.toNat (c.toNat * 8 + s.columnOffset.toNat)]) rfl nofun hc
      (by simp only [opRegs, line, column, column_register hk]; rfl)
      (by simp [opBursts, line, column, Nat.mod_eq_of_lt hl, Nat.mod_eq_of_lt hk])
    refine ⟨t, e, core, sent, ?_, ?_⟩
    · apply BitVec.eq_of_toNat_eq
      simp [State.hostRead, State.core_line_eq core]
      omega
    · apply BitVec.eq_of_toNat_eq
      simp [State.hostRead, State.core_column_eq core]
      omega
  · have ignored : lineOperand l = none ∨ columnOperand c = none := by
      rw [lineOperand_eq, columnOperand_eq]
      by_cases hl : l.toNat < 8
      · right; simp; omega
      · left; simp [hl]
    refine (run_connected hc _).trans ?_
    rcases ignored with hl | hk
    · rw [hl]; cases columnOperand c <;> rfl
    · rw [hk]; cases lineOperand l <;> rfl

/-- Settles O25. -/
theorem homeResult : Obligations.HomeResult := fun _ hc => exec_result (i := .home) rfl nofun hc rfl rfl

/-- Settles O35. -/
theorem clearLineResult : Obligations.ClearLineResult := by
  intro s r hc
  refine ⟨fun hr => ?_, fun out => ?_⟩
  · have row : lineOperand r = some (BitVec.ofNat 3 r.toNat) := by simp [lineOperand_eq, hr]
    exact exec_result (i := .clearLine r) rfl nofun hc (by simp only [opRegs, row]; rfl)
      (by simp [opBursts, row, Nat.mod_eq_of_lt hr])
  · have ignored : lineOperand r = none := by simp [lineOperand_eq, out]
    refine (run_connected hc _).trans ?_
    rw [ignored]

/-- Settles O36. -/
theorem clearCurrentLineResult : Obligations.ClearCurrentLineResult :=
  fun _ hc => exec_result (i := .clearCurrentLine) rfl nofun hc rfl rfl

/-- Settles O37. -/
theorem clearResult : Obligations.ClearResult := fun _ hc => exec_result (i := .clear) rfl nofun hc rfl rfl

/-- Settles O39: the flag chooses the pair of opcodes. -/
theorem flipResult : Obligations.FlipResult := by
  intro s f hc
  refine exec_result (i := .flip f) rfl nofun hc rfl ?_
  by_cases zero : f.toNat = 0 <;> simp [opBursts, boolOperand_eq, flipOpcodes, zero]

/-! ## Printing -/

/-- Settles O26: a newline is one forced line advance. -/
theorem newlineAdvancesTheLine : Obligations.NewlineAdvancesTheLine :=
  fun _ hc => exec_result (i := .printChar 0x0A) rfl nofun hc rfl rfl

theorem printRegs_printable {code : Byte} (h1 : 32 ≤ code.toNat) (h2 : code.toNat < 127) (s : State) :
    printRegs code s = glyphRegs s := by
  simp only [printRegs, charClass_printable h1 h2]

theorem printBursts_printable {code : Byte} (h1 : 32 ≤ code.toNat) (h2 : code.toNat < 127) (s : State) :
    printBursts code s = glyphBursts code s := by
  simp only [printBursts, charClass_printable h1 h2]

theorem glyphRegs_unwrapped {s : State} (h : s.column.toNat < 16) : glyphRegs s = s.columnAt (s.column + 1) :=
  if_neg (Nat.not_le.2 h)

theorem glyphBursts_unwrapped {s : State} (h : s.column.toNat < 16) (code : Byte) : glyphBursts code s = [wireGlyph s code] :=
  if_neg (Nat.not_le.2 h)

theorem glyphRegs_wrapped {s : State} (h : 16 ≤ s.column.toNat) : glyphRegs s = (s.advanced false).columnAt 1 := if_pos h

theorem glyphBursts_wrapped {s : State} (h : 16 ≤ s.column.toNat) (code : Byte) :
    glyphBursts code s = advanceBursts false s ++ [wireGlyph s code] := if_pos h

theorem column_succ (c : BitVec 5) : c + 1 = BitVec.ofNat 5 (c.toNat + 1) := by
  apply BitVec.eq_of_toNat_eq
  simp [BitVec.toNat_add]

/-- Settles O27: no wrap is pending, so the glyph is all. -/
theorem printableCodeWithoutWrap : Obligations.PrintableCodeWithoutWrap := by
  intro s code hc h1 h2 hk
  exact exec_result (i := .printChar code) rfl nofun hc
    ((printRegs_printable h1 h2 s).trans ((glyphRegs_unwrapped hk).trans (by rw [column_succ]; rfl)))
    ((printBursts_printable h1 h2 s).trans (glyphBursts_unwrapped hk code))

/-- Settles O28: the pending wrap is one natural line advance before the glyph. -/
theorem printableCodeWithPendingWrap : Obligations.PrintableCodeWithPendingWrap := by
  intro s code hc h1 h2 hk
  exact exec_result (i := .printChar code) rfl nofun hc
    ((printRegs_printable h1 h2 s).trans (glyphRegs_wrapped hk))
    ((printBursts_printable h1 h2 s).trans (glyphBursts_wrapped hk code))

/-- Settles O29: behind the gate an ignored code's body is empty. -/
theorem otherCodesAreIgnored : Obligations.OtherCodesAreIgnored := by
  intro s code h h'
  have body : s.printCharBody code = s := by simp only [State.printCharBody, charClass_ignored h h']
  refine congrArg Host.Outcome.next ?_
  cases hc : s.connected with
  | true => exact (State.gated_connected hc _).trans body
  | false => exact State.gated_disconnected hc _

/-! ## Texts (R112, R113) -/

theorem execAll_cons {i : Instr} {s t : State} (h : exec i s = .next t) (is : List Instr) :
    execAll (i :: is) s = execAll is t := by
  simp [execAll, h]

theorem execAll_next (is : List Instr) (s : State) : ∃ t, execAll is s = .next t := by
  induction is generalizing s with
  | nil => exact ⟨s, rfl⟩
  | cons i is ih =>
    obtain ⟨u, hu⟩ := exec_next i s
    rw [execAll_cons hu]
    exact ih u

/-- Running one list of operations and then another (R63). -/
theorem execAll_append {is : List Instr} {s t : State} (h : execAll is s = .next t) (js : List Instr) :
    execAll (is ++ js) s = execAll js t := by
  induction is generalizing s with
  | nil => rw [← Host.Outcome.next.inj h]; rfl
  | cons i is ih =>
    obtain ⟨u, hu⟩ := exec_next i s
    rw [execAll_cons hu] at h
    rw [List.cons_append, execAll_cons hu, ih h]

theorem execAll_singleton (i : Instr) (s : State) : execAll [i] s = exec i s := by
  obtain ⟨t, ht⟩ := exec_next i s
  rw [execAll_cons ht, ht]
  rfl

/-- Settles O31: PRINT is a list of operations, run one after the other. -/
theorem printlnIsPrintThenNewline : Obligations.PrintlnIsPrintThenNewline := by
  intro s text more
  obtain ⟨t, ht⟩ := execAll_next (printOps text) s
  obtain ⟨u, hu⟩ := execAll_next (printOps more) t
  refine ⟨t, u, ht, hu, ?_, ?_, ?_, fun code => ?_⟩
  · rw [printOps, List.map_append]
    exact (execAll_append ht _).trans hu
  · rw [printlnOps, execAll_append ht, execAll_singleton]
  · rintro rfl
    exact (Host.Outcome.next.inj ht).symm
  · obtain ⟨v, hv⟩ := exec_next (.printChar code) s
    exact ⟨v, hv, execAll_cons hv _⟩

/-- Printable codes up to the end of a line move the column and nothing else (R104). -/
theorem execAll_printable {text : List Byte} (codes : ∀ k ∈ text, 32 ≤ k.toNat ∧ k.toNat < 127) {s t : State}
    (hc : s.connected = true) (fits : s.column.toNat + text.length ≤ 16) (h : execAll (printOps text) s = .next t) :
    t.core = ({ s with column := BitVec.ofNat 5 (s.column.toNat + text.length) } : State).core := by
  induction text generalizing s with
  | nil =>
    rw [← Host.Outcome.next.inj h]
    simp
  | cons k text ih =>
    rw [List.length_cons] at fits
    obtain ⟨low, high⟩ := codes k (List.mem_cons_self ..)
    obtain ⟨u, hu, core, -⟩ := printableCodeWithoutWrap s k hc low high (by omega)
    have column : u.column.toNat = s.column.toNat + 1 := by
      rw [State.core_column_eq core]
      simp
      omega
    have rest := ih (fun x hx => codes x (List.mem_cons_of_mem _ hx)) ((State.core_connected_eq core).trans hc)
      (by omega) ((execAll_cons hu _).symm.trans h)
    rw [rest, column, List.length_cons, Nat.add_assoc, Nat.add_comm 1]
    exact State.core_columnAt core _

/-- Settles O30: sixteen codes fill the line, and the newline after them is a forced advance from it. -/
theorem sixteenCodesLeaveTheWrapPending : Obligations.SixteenCodesLeaveTheWrapPending := by
  intro s t text hc zero length codes h
  have core := execAll_printable codes hc (by simp [zero, length]) h
  obtain ⟨-, -, connected, line, -, offset, -, mode, -⟩ := State.core_fields core
  obtain ⟨u, hu, newline, -⟩ := newlineAdvancesTheLine t (connected.trans hc)
  rw [line, offset, mode] at newline
  refine ⟨line, ?_, offset, u, hu, State.core_column_eq newline, ?_, ?_⟩
  · rw [State.core_column_eq core]
    simp [zero, length]
  · rw [State.core_line_eq newline]
    simpa using Nat.mod_eq_of_lt (lineAfter_lt s.printMode true s.line)
  · rw [State.core_lineOffset_eq newline]
    simpa using Nat.mod_eq_of_lt (lineOffsetAfter_lt s.printMode s.line.toNat s.lineOffset)

/-! ## The three setters -/

/-- Settles O32: the body by the operand's four cases. -/
theorem setPrintModeResult : Obligations.SetPrintModeResult := by
  intro s m hc
  refine ⟨fun h => (run_connected hc _).trans ?_, fun h => (run_connected hc _).trans ?_,
    fun h => (run_connected hc _).trans ?_, fun h => (run_connected hc _).trans ?_⟩
  · simp [printModeOperand_eq, h]
  · simp [printModeOperand_eq, h]
  · simp [printModeOperand_eq, h]
  · have out : printModeOperand m = none := by
      rw [printModeOperand_eq, if_neg (by omega), if_neg (by omega), if_neg (by omega)]
    rw [out]

/-- Settles O33. -/
theorem setInverseFontResult : Obligations.SetInverseFontResult := by
  intro s f hc
  have body : exec (.setInverseFont f) s = .next { s with inverseFont := boolOperand f } := run_connected hc _
  exact ⟨fun h => by rw [body, boolOperand_eq]; simp [h], fun h => by rw [body, boolOperand_eq]; simp [h]⟩

/-- Settles O34. -/
theorem setDisplayColumnOffsetResult : Obligations.SetDisplayColumnOffsetResult := by
  intro s n hc
  refine ⟨fun hn hk => (run_connected hc _).trans ?_, fun hn hk => (run_connected hc _).trans ?_,
    fun hn => (run_connected hc _).trans ?_⟩
  · simp [offsetOperand_eq, hn, hk]
  · simp [offsetOperand_eq, hn, hk]
  · have out : offsetOperand n = none := by rw [offsetOperand_eq, if_neg (by omega)]
    rw [out]

/-! ## INIT (R151, R154) -/

theorem exec_init (chip : Chip) (req : Byte) (s : State) : exec (.init chip req) s = .next (s.initBody chip req) := rfl

/-- An explicit address of valid parameters is not `ADDR_AUTO` (R8). -/
theorem explicit_ne_auto {c : Config} (hv : c.Valid) {req : Byte} (h : req = c.addrA ∨ req = c.addrB) : req ≠ c.addrAuto := by
  obtain ⟨-, -, -, ⟨-, ha, hb⟩, -⟩ := hv
  rcases h with rfl | rfl
  · exact ha
  · exact hb

/-- No device at an explicit address, none at either (R151): one state after the failed probes. -/
theorem State.notFound_result {as : List Byte} {s : State} (failed : ∀ k, k < as.length → s.answerAt k = false) :
    ((s.probed as).raiseError .deviceNotFound).core =
      ({ s with connected := false, status := .deviceNotFound } : State).core ∧
    ((s.probed as).raiseError .deviceNotFound).txerr = s.txerr ∧
    ((s.probed as).raiseError .deviceNotFound).tx = s.tx ++ s.probeEvents as ∧
    ((s.probed as).raiseError .deviceNotFound).answers = s.answers.drop as.length ∧
    ((s.probed as).raiseError .deviceNotFound).panel = s.panel := by
  have regs := core_fields (s.probed_core as)
  exact ⟨core_of_fields (by simp [regs]), s.probed_txerr as, s.probed_tx as, s.probed_answers as,
    probeAll_panel_failed (s := { s with connected := false }) failed⟩

/-- Settles O40: the address check comes before any probe, and where no device answers the block stays disconnected. -/
theorem initFailures : Obligations.InitFailures := by
  refine ⟨fun s c r na nb nauto => ?_, fun s c hv h0 h1 => ?_⟩
  · rw [exec_init, State.initBody_invalid (by simp [addressAllowed, na, nb, nauto])]
  · have e : s.initBody c s.cfg.addrAuto = (s.probed [s.cfg.addrA, s.cfg.addrB]).raiseError .deviceNotFound := by
      simp [State.initBody_auto, h0, h1, State.probed, State.probeAll]
    obtain ⟨core, txerr, tx, answers, panel⟩ := State.notFound_result (as := [s.cfg.addrA, s.cfg.addrB]) (s := s)
      fun k hk => by
        match k, hk with
        | 0, _ => exact h0
        | 1, _ => exact h1
    exact ⟨_, by rw [exec_init, e], core, txerr, tx, answers, panel,
      fun i hi notInit => exec_disconnected hi notInit (State.core_connected_eq core)⟩

/-- Settles O41. -/
theorem initExplicitAddressNotAcknowledged : Obligations.InitExplicitAddressNotAcknowledged := by
  intro s c r hv hr h0
  have e : s.initBody c r = (s.probed [r]).raiseError .deviceNotFound := by
    simp [State.initBody_explicit hr (explicit_ne_auto hv hr), h0, State.probed, State.probeAll]
  obtain ⟨core, txerr, tx, answers, panel⟩ := State.notFound_result (as := [r]) (s := s)
    fun k hk => by
      obtain rfl : k = 0 := by simpa using hk
      exact h0
  exact ⟨_, by rw [exec_init, e], core, txerr, tx, answers, panel⟩

/-- Settles O42: by which probe is the first to be answered. -/
theorem initSuccess : Obligations.InitSuccess := by
  intro s c req sel probes hv ways
  suffices found : ∃ as, s.initBody c req = (s.probed as).initConnected c sel ∧ probes = s.probeEvents as by
    obtain ⟨as, e, rfl⟩ := found
    refine ⟨_, s.initStart c sel as, by rw [exec_init, e], ?_, State.found_core c sel as s, State.found_sent c sel as s⟩
    rw [State.probeEvents_length]
    rfl
  rcases ways with ⟨hr, h0, rfl, rfl⟩ | ⟨rfl, h0, rfl, rfl⟩ | ⟨rfl, h0, h1, rfl, rfl⟩
  · refine ⟨[sel], ?_, rfl⟩
    simp [State.initBody_explicit hr (explicit_ne_auto hv hr), h0, State.probed, State.probeAll]
  · refine ⟨[s.cfg.addrA], ?_, rfl⟩
    simp [State.initBody_auto, h0, State.probed, State.probeAll]
  · refine ⟨[s.cfg.addrA, s.cfg.addrB], ?_, rfl⟩
    simp [State.initBody_auto, h0, h1, State.probed, State.probeAll]

/-- Settles O43: the ways an INIT goes are told apart by `status`. -/
theorem initWriteCount : Obligations.InitWriteCount := by
  intro s t c req hv h
  cases exec_run h with
  | wire hi | op _ notInit | disconnected _ notInit => simp_all [Instr.isHost]
  | init run =>
    cases run with
    | invalid => exact ⟨fun _ => rfl, nofun, nofun, nofun⟩
    | notFound allowed =>
      have length := congrArg List.length (s.probed_tx (probeCandidates s.cfg req))
      rw [List.length_append, State.probeEvents_length] at length
      refine ⟨nofun, fun _ explicit => ?_, fun _ auto => ?_, nofun⟩
      · simpa [probeCandidates, explicit] using length
      · simpa [probeCandidates, auto] using length
    | @found front rest sel allowed e =>
      have status := State.core_status_eq (State.found_core c sel (front ++ [sel]) s)
      have probes := (probeCandidates_allowed allowed).2
      rw [e] at probes
      simp at probes
      refine ⟨fun x => ?_, fun x => ?_, fun x => ?_, fun _ => ⟨front.length + 1, by omega, ?_⟩⟩
      · cases status.symm.trans x
      · cases status.symm.trans x
      · cases status.symm.trans x
      · rw [State.found_length, wireClear_length]
        cases c <;> simp [State.initStart, sweepBursts]

end Sys2Proof.Machine
end

section
/-! PROOF. What the controller makes of the bursts of each procedure once received (20_memory.md R57, 30_encoding.md R93,
70_reset_and_hazards.md R207), and that it follows the cursor registers. -/

namespace Sys2Proof.Machine

/-! ## Single bursts -/

/-- Settles O46: the receiver takes the opcodes one after the other, each from its control byte. -/
theorem commandBurstIsItsOpcodesInOrder : Obligations.CommandBurstIsItsOpcodesInOrder :=
  fun _ width p b is hv h => Panel.deliver_frameCmd hv width b is h p

/-- Settles O47: the bytes are one run of stores from the pointers on. -/
theorem dataBurstFillsConsecutiveColumns : Obligations.DataBurstFillsConsecutiveColumns := by
  intro c chip p q ds hv fits hq
  have width := chipWidth_lt chip
  obtain rfl : q = (p.storeRun ds).atPhase .control := hq.trans (Panel.deliver_data hv _ width ds p fits)
  refine ⟨?_, rfl, rfl, rfl, rfl, rfl, fun k hk => ?_, fun x hx => ?_⟩
  · simp [Panel.storeRun]
    omega
  · rw [Panel.atPhase_ram, Panel.storeRun_read, if_pos (by omega), Nat.add_sub_cancel_left]
  · rw [Panel.atPhase_ram, Panel.storeRun_read, if_neg (by omega)]

/-! ## Runs of bursts -/

/-- The controller after a line advance to line `l` under scroll window `o` (R101 to R103). -/
def Panel.advancedTo (s : State) (l : Nat) (o : BitVec 3) (p : Panel) : Panel :=
  let page := (l + o.toNat) % 8
  let scrolled := if s.printMode = .scrollLine ∧ s.line.toNat = 7 then { p with startLine := BitVec.ofNat 6 (o.toNat * 8) } else p
  let cleared := if s.printMode = .scrollLine then scrolled.clearPage (chipWidth s.chip) page else scrolled
  cleared.pointAt page s.columnOffset.toNat

/-- The orientation a flip sets (R88, R89). -/
def Panel.oriented (flipped : Bool) (p : Panel) : Panel :=
  { p with segFlipped := flipped, scanFlipped := flipped }.atPhase .control

section Delivery

variable {s : State} (hv : s.cfg.Valid) (hd : s.cfg.OpcodesDisjoint)

include hv hd

theorem State.delivered_position (l px : Nat) (o : BitVec 3) (hpx : px < 128) (p : Panel) :
    s.delivered [wirePosition s.cfg o.toNat l px] p = p.pointAt ((l + o.toNat) % 8) px :=
  Panel.deliver_position hv hd _ p _ _ px hpx

theorem State.delivered_clearLine (hz : s.cfg.clearSweepStart = .zero) (row : Nat) (p : Panel) :
    s.delivered (wireClearLine s row) p =
      (p.clearPage (chipWidth s.chip) ((row + s.lineOffset.toNat) % 8)).pointAt ((row + s.lineOffset.toNat) % 8)
        s.columnOffset.toNat :=
  Panel.deliver_clearLine hv hd hz row p

/-- The bursts of a line advance, received. Only a clearing one needs the sweep to start at pixel column 0. -/
theorem State.delivered_nextLine (hz : s.printMode = .scrollLine → s.cfg.clearSweepStart = .zero) (l : Nat) (o : BitVec 3)
    (p : Panel) : s.delivered (wireNextLine s l o.toNat) p = p.advancedTo s l o := by
  have offset : s.columnOffset.toNat < 128 := by have := s.columnOffset.isLt; omega
  by_cases scroll : s.printMode = .scrollLine
  · have clear (q : Panel) : s.delivered (wireClearLine (s.windowAt o) l) q =
        (q.clearPage (chipWidth s.chip) ((l + o.toNat) % 8)).pointAt ((l + o.toNat) % 8) s.columnOffset.toNat :=
      State.delivered_clearLine (s := s.windowAt o) hv hd (hz scroll) l q
    have startLine (q : Panel) : q.deliver s.cfg (chipWidth s.chip) (wireStartLine s.cfg o.toNat) =
        { q with startLine := BitVec.ofNat 6 (o.toNat * 8) }.atPhase .control :=
      Panel.deliver_startLine hv hd _ q _ o.isLt
    rw [wireNextLine_scroll scroll, delivered_append, delivered_cons, clear, Panel.deliver_position hv hd _ _ _ _ _ offset]
    by_cases bottom : s.line.toNat = 7
    · simp only [bottom, if_true, delivered_cons, delivered_nil, startLine, Panel.advancedTo, scroll, and_self]
      rfl
    · simp only [bottom, if_false, delivered_nil, Panel.advancedTo, scroll, and_false, if_true]
      rfl
  · rw [wireNextLine_overwrite scroll, State.delivered_position hv hd l _ o offset]
    simp [Panel.advancedTo, scroll]

/-- The two opcodes of a flip, received, as one burst or as two (R167, decision D18). -/
theorem State.delivered_flip (flipped : Bool) (p : Panel) :
    s.delivered (wireFlip s.cfg (flipOpcodes s.cfg flipped).1 (flipOpcodes s.cfg flipped).2) p = p.oriented flipped := by
  have decode (b : Byte) := decodeOpcode_of_class hd b
  obtain ⟨seg, hseg, segEffect⟩ : ∃ i, decodeOpcode s.cfg (flipOpcodes s.cfg flipped).1 = .ok i ∧
      ∀ q, wireEffect i q = q.setSegment flipped := by
    obtain ⟨-, -, -, -, -, -, su, sf, -, -⟩ := decode (flipOpcodes s.cfg flipped).1
    cases flipped with
    | false => exact ⟨_, su rfl, fun _ => rfl⟩
    | true => exact ⟨_, sf rfl, fun _ => rfl⟩
  obtain ⟨scan, hscan, scanEffect⟩ : ∃ i, decodeOpcode s.cfg (flipOpcodes s.cfg flipped).2 = .ok i ∧
      ∀ q, wireEffect i q = q.setScan flipped := by
    obtain ⟨-, -, -, -, -, -, -, -, cu, cf⟩ := decode (flipOpcodes s.cfg flipped).2
    cases flipped with
    | false => exact ⟨_, cu rfl, fun _ => rfl⟩
    | true => exact ⟨_, cf rfl, fun _ => rfl⟩
  cases framing : s.cfg.flipFraming with
  | oneBurst =>
    simp only [wireFlip, framing, delivered_cons, delivered_nil, Panel.deliver_two hv _ _ hseg hscan, segEffect, scanEffect]
    rfl
  | twoBursts =>
    simp only [wireFlip, framing, delivered_cons, delivered_nil, Panel.deliver_one hv _ _ hseg, Panel.deliver_one hv _ _ hscan,
      segEffect, scanEffect]
    rfl

/-- The opcode of SET_INVERSE, received (R165). -/
theorem State.delivered_setInverse (flag : Byte) (p : Panel) :
    s.delivered (opBursts (.setInverse flag) s) p = { p with inverse := decide (flag.toNat ≠ 0) }.atPhase .control := by
  obtain ⟨-, -, -, -, normal, inverse, -⟩ := decodeOpcode_of_class hd (if flag.toNat = 0 then s.cfg.opModeNormal else s.cfg.opModeInverse)
  by_cases zero : flag.toNat = 0
  · simp only [zero, if_true] at normal
    simp only [opBursts, zero, if_true, delivered_cons, delivered_nil, Panel.deliver_one hv _ _ (normal trivial)]
    rfl
  · simp only [zero, if_false] at inverse
    have on : decide (flag.toNat ≠ 0) = true := by simp [zero]
    simp only [opBursts, zero, if_false, delivered_cons, delivered_nil, Panel.deliver_one hv _ _ (inverse trivial), on]
    rfl

end Delivery

/-! ## Pointers and modes -/

/-- The controller's pointers and start line are those of these registers (R207). -/
def Panel.Follows (p : Panel) (r : State) : Prop := State.Coherent { r with panel := p }

theorem State.coherent_iff (s : State) : s.Coherent ↔ s.panel.Follows s := Iff.rfl

theorem Panel.Follows.of_core {p : Panel} {r t : State} (h : p.Follows r) (e : t.core = r.core) : p.Follows t := by
  obtain ⟨-, -, -, line, column, lineOffset, columnOffset, -⟩ := State.core_fields e
  obtain ⟨page, px, startLine⟩ := h
  exact ⟨by simpa [line, lineOffset] using page, by simpa [column, columnOffset] using px,
    by simpa [lineOffset] using startLine⟩

/-- A state whose registers and controller are given. -/
theorem State.Coherent.of_follows {p : Panel} {t r : State} (h : p.Follows r) (panel : t.panel = p) (core : t.core = r.core) :
    t.Coherent := by
  rw [State.coherent_iff, panel]
  exact h.of_core core

/-- The panel modes of two controllers are the same (R87 to R89). -/
structure Panel.SameModes (p q : Panel) : Prop where
  inverse_eq : q.inverse = p.inverse
  segFlipped_eq : q.segFlipped = p.segFlipped
  scanFlipped_eq : q.scanFlipped = p.scanFlipped

theorem Panel.SameModes.refl (p : Panel) : p.SameModes p := ⟨rfl, rfl, rfl⟩

/-- Pointers set to a cell of the registers' window, the start line being the window's. -/
theorem Panel.follows_pointAt {p : Panel} {r : State}
    (startLine : p.startLine.toNat = r.lineOffset.toNat * 8) (column : r.column.toNat ≤ 16) :
    (p.pointAt ((r.line.toNat + r.lineOffset.toNat) % 8) (r.column.toNat * 8 + r.columnOffset.toNat)).Follows r := by
  have := r.columnOffset.isLt
  refine ⟨?_, ?_, startLine⟩
  · simp [Panel.pointAt_page]
  · simp [Panel.pointAt_column]
    omega

/-- The line of a line advance. -/
theorem advanced_line (forced : Bool) (s : State) :
    (s.advanced forced).line.toNat = lineAfter s.printMode forced s.line.toNat := by
  simpa [State.advanced] using Nat.mod_eq_of_lt (lineAfter_lt s.printMode forced s.line)

/-- The scroll window of a line advance. -/
theorem advanced_lineOffset (forced : Bool) (s : State) :
    (s.advanced forced).lineOffset.toNat = lineOffsetAfter s.printMode s.line.toNat s.lineOffset.toNat := by
  simpa [State.advanced] using Nat.mod_eq_of_lt (lineOffsetAfter_lt s.printMode s.line.toNat s.lineOffset)

/-- The window moves where a start-line burst goes with it and nowhere else. -/
theorem advanced_window (forced : Bool) {s : State} (h : ¬ (s.printMode = .scrollLine ∧ s.line.toNat = 7)) :
    (s.advanced forced).lineOffset.toNat = s.lineOffset.toNat := by
  rw [advanced_lineOffset]
  cases hm : s.printMode with
  | scrollLine => exact if_neg fun bottom => h ⟨hm, bottom⟩
  | overwriteNextLine => rfl
  | overwriteSameLine => rfl

theorem State.delivered_advance {s : State} (hv : s.cfg.Valid) (hd : s.cfg.OpcodesDisjoint)
    (hz : s.printMode = .scrollLine → s.cfg.clearSweepStart = .zero) (forced : Bool) (p : Panel) :
    s.delivered (advanceBursts forced s) p = p.advancedTo s (s.advanced forced).line.toNat (s.advanced forced).lineOffset := by
  rw [advanceBursts, ← advanced_line forced s, ← advanced_lineOffset forced s]
  exact delivered_nextLine hv hd hz _ _ p

theorem Panel.advancedTo_sameModes (s : State) (l : Nat) (o : BitVec 3) (p : Panel) : p.SameModes (p.advancedTo s l o) := by
  unfold Panel.advancedTo
  constructor <;> (repeat' split) <;> rfl

theorem Panel.advancedTo_column (s : State) (l : Nat) (o : BitVec 3) (p : Panel) :
    (p.advancedTo s l o).column.toNat = s.columnOffset.toNat := by
  have := s.columnOffset.isLt
  simp [Panel.advancedTo]
  omega

theorem Panel.advancedTo_page (s : State) (l : Nat) (o : BitVec 3) (p : Panel) :
    (p.advancedTo s l o).page.toNat = (l + o.toNat) % 8 := by
  simp [Panel.advancedTo]

theorem Panel.advancedTo_startLine (s : State) (l : Nat) (o : BitVec 3) (p : Panel) :
    (p.advancedTo s l o).startLine =
      if s.printMode = .scrollLine ∧ s.line.toNat = 7 then BitVec.ofNat 6 (o.toNat * 8) else p.startLine := by
  unfold Panel.advancedTo
  split <;> split <;> rfl

/-- The display after a line advance: in SCROLL_LINE mode the entered page is zero, all else as before (R101, R108). -/
theorem Panel.advancedTo_read (s : State) (l : Nat) (o : BitVec 3) (p : Panel) (x : Nat) :
    (p.advancedTo s l o).ram.read x =
      if s.printMode = .scrollLine ∧ (l + o.toNat) % 8 * 256 ≤ x ∧ x < (l + o.toNat) % 8 * 256 + chipWidth s.chip then some 0
      else p.ram.read x := by
  have ram : (if s.printMode = .scrollLine ∧ s.line.toNat = 7 then { p with startLine := BitVec.ofNat 6 (o.toNat * 8) } else p).ram =
      p.ram := by split <;> rfl
  by_cases scroll : s.printMode = .scrollLine
  · simp only [scroll, true_and] at ram
    simp only [Panel.advancedTo, scroll, if_true, true_and, Panel.pointAt_ram, Panel.clearPage_read, ram]
  · simp [Panel.advancedTo, scroll]

/-- After a line advance the pointers are at the first cell of the line entered (R207). -/
theorem Panel.follows_advance {s : State} {p : Panel} (startLine : p.startLine.toNat = s.lineOffset.toNat * 8) (forced : Bool) :
    (p.advancedTo s (s.advanced forced).line.toNat (s.advanced forced).lineOffset).Follows ((s.advanced forced).columnAt 0) := by
  have window := (s.advanced forced).lineOffset.isLt
  refine ⟨Panel.advancedTo_page .., by simpa [State.advanced] using Panel.advancedTo_column .., ?_⟩
  simp only [Panel.advancedTo_startLine]
  split
  · simp
    omega
  · rename_i h
    simpa [advanced_window forced h] using startLine

/-- A glyph moves the pointers one cell to the right (R207). -/
theorem Panel.follows_glyph {p : Panel} {r : State} {ds : List Byte} (h : p.Follows r) (length : ds.length = 8)
    (_ : r.column.toNat < 16) : ((p.storeRun ds).atPhase .control).Follows (r.columnAt (r.column + 1)) := by
  have offset := r.columnOffset.isLt
  obtain ⟨page, px, startLine⟩ := h
  have px : p.column.toNat = r.column.toNat * 8 + r.columnOffset.toNat := px
  refine ⟨page, ?_, startLine⟩
  simp [Panel.storeRun, length, px, BitVec.toNat_add]
  omega

theorem glyph_length (s : State) (code : Byte) :
    ((glyphToList (glyphOf s.cfg code)).map fun g => if s.inverseFont then g ^^^ 0xFF else g).length = 8 := by
  simp [glyphToList]

/-- R58: a cell of a connected block lies on the panel. -/
theorem State.Inv.cell_fits {s : State} (h : s.Inv) (hc : s.connected = true) (column : s.column.toNat < 16) :
    s.column.toNat * 8 + s.columnOffset.toNat + 8 ≤ chipWidth s.chip := by
  have offset := s.columnOffset.isLt
  cases hk : s.chip with
  | sh1106 => simp only [chipWidth]; omega
  | ssd1306 =>
    rw [h.offset_zero hc hk]
    simp [chipWidth]
    omega

/-- The controller after an operation: it follows the registers, and its modes are as before. -/
structure Panel.Drawn (p q : Panel) (r : State) : Prop where
  follows : q.Follows r
  modes : p.SameModes q

section Drawing

variable {s : State} (hv : s.cfg.Valid) (hd : s.cfg.OpcodesDisjoint) (hz : s.cfg.clearSweepStart = .zero)

include hv hd

theorem Panel.drawn_position {p : Panel} (startLine : p.startLine.toNat = s.lineOffset.toNat * 8) (l : BitVec 3) (c : BitVec 4) :
    p.Drawn (s.delivered [wirePosition s.cfg s.lineOffset.toNat l.toNat (c.toNat * 8 + s.columnOffset.toNat)] p)
      ((s.lineAt l).columnAt (c.zeroExtend 5)) := by
  have := s.columnOffset.isLt
  have := c.isLt
  rw [State.delivered_position hv hd _ _ _ (by omega)]
  refine ⟨?_, ⟨rfl, rfl, rfl⟩⟩
  have widened : (c.zeroExtend 5).toNat = c.toNat := by simp; omega
  have h := Panel.follows_pointAt (r := (s.lineAt l).columnAt (c.zeroExtend 5)) (p := p) startLine (by simp; omega)
  simpa only [State.columnAt_column, State.columnAt_line, State.lineAt_line, State.columnAt_lineOffset, State.lineAt_lineOffset,
    State.columnAt_columnOffset, State.lineAt_columnOffset, widened] using h

include hz

theorem Panel.drawn_clearLine {p : Panel} (startLine : p.startLine.toNat = s.lineOffset.toNat * 8) (row : BitVec 3) :
    p.Drawn (s.delivered (wireClearLine s row.toNat) p) ((s.lineAt row).columnAt 0) := by
  rw [State.delivered_clearLine hv hd hz]
  refine ⟨?_, ⟨rfl, rfl, rfl⟩⟩
  have h := Panel.follows_pointAt (r := (s.lineAt row).columnAt 0)
    (p := p.clearPage (chipWidth s.chip) ((row.toNat + s.lineOffset.toNat) % 8)) startLine (by simp)
  simpa using h

/-- A clear leaves the pointers home and the start line 0, wherever they were (R163, R203). -/
theorem Panel.drawn_clear (p : Panel) : p.Drawn (s.delivered (wireClear s) p) s.homed := by
  have := s.columnOffset.isLt
  obtain ⟨page, column, startLine, inverse, seg, scan, -⟩ := Panel.deliver_clear hv hd hz p _ rfl
  refine ⟨⟨?_, ?_, ?_⟩, ⟨inverse, seg, scan⟩⟩
  · simp only [State.delivered, page]; rfl
  · simp only [State.delivered, column]
    simp [State.homed]
    omega
  · simp only [State.delivered, startLine]; rfl

theorem Panel.drawn_advance {p : Panel} (startLine : p.startLine.toNat = s.lineOffset.toNat * 8) (forced : Bool) :
    p.Drawn (s.delivered (advanceBursts forced s) p) ((s.advanced forced).columnAt 0) := by
  rw [State.delivered_advance hv hd fun _ => hz]
  exact ⟨Panel.follows_advance startLine forced, Panel.advancedTo_sameModes ..⟩

omit hd hz in
theorem State.delivered_glyph {p : Panel} (fits : p.column.toNat + 8 ≤ chipWidth s.chip) (code : Byte) :
    s.delivered [wireGlyph s code] p =
      (p.storeRun ((glyphToList (glyphOf s.cfg code)).map fun g => if s.inverseFont then g ^^^ 0xFF else g)).atPhase .control :=
  Panel.deliver_glyph hv code p fits

/-- A printable code (R104): the pending wrap's line advance first, then the glyph. -/
theorem Panel.drawn_glyph (hs : s.Inv) (hc : s.connected = true) {p : Panel} (h : p.Follows s) (code : Byte) :
    p.Drawn (s.delivered (glyphBursts code s) p) (glyphRegs s) := by
  have startLine : p.startLine.toNat = s.lineOffset.toNat * 8 := h.startLine_eq
  by_cases wrap : 16 ≤ s.column.toNat
  · obtain ⟨follows, modes⟩ := Panel.drawn_advance hv hd hz startLine false
    have column : (s.delivered (advanceBursts false s) p).column.toNat = s.columnOffset.toNat := by
      rw [State.delivered_advance hv hd fun _ => hz, Panel.advancedTo_column]
    have fits : s.columnOffset.toNat + 8 ≤ chipWidth s.chip := by
      have := s.columnOffset.isLt
      cases s.chip <;> simp only [chipWidth] <;> omega
    rw [glyphBursts_wrapped wrap, glyphRegs_wrapped wrap, State.delivered_append, State.delivered_glyph hv (by omega)]
    exact ⟨Panel.follows_glyph follows (glyph_length s code) (by simp), modes.inverse_eq, modes.segFlipped_eq, modes.scanFlipped_eq⟩
  · have column : s.column.toNat < 16 := by omega
    have fits : p.column.toNat + 8 ≤ chipWidth s.chip := by
      rw [show p.column.toNat = _ from h.column_eq]
      exact hs.cell_fits hc column
    rw [glyphBursts_unwrapped column, glyphRegs_unwrapped column, State.delivered_glyph hv fits]
    exact ⟨Panel.follows_glyph h (glyph_length s code) column, rfl, rfl, rfl⟩

/-- R207, and which operations leave the panel modes: every one but SET_INVERSE, FLIP and SET_DISPLAY_COLUMN_OFFSET. -/
theorem Panel.drawn_op (hs : s.Inv) (hc : s.connected = true) {p : Panel} (h : p.Follows s) {i : Instr}
    (notInverse : ∀ f, i ≠ .setInverse f) (notFlip : ∀ f, i ≠ .flip f) (notOffset : ∀ n, i ≠ .setDisplayColumnOffset n) :
    p.Drawn (s.delivered (opBursts i s) p) (opRegs i s) := by
  have startLine : p.startLine.toNat = s.lineOffset.toNat * 8 := h.startLine_eq
  cases i with
  | printChar code =>
    simp only [opBursts, opRegs, printBursts, printRegs]
    cases charClass code with
    | newline => exact Panel.drawn_advance hv hd hz startLine true
    | printable => exact Panel.drawn_glyph hv hd hz hs hc h code
    | ignored => exact ⟨h, .refl p⟩
  | clear => exact Panel.drawn_clear hv hd hz p
  | clearLine row =>
    simp only [opBursts, opRegs]
    cases lineOperand row with
    | none => exact ⟨h, .refl p⟩
    | some r => exact Panel.drawn_clearLine hv hd hz startLine r
  | clearCurrentLine => exact Panel.drawn_clearLine hv hd hz startLine s.line
  | setCursor line column =>
    simp only [opBursts, opRegs]
    cases lineOperand line with
    | none => cases columnOperand column <;> exact ⟨h, .refl p⟩
    | some l =>
      cases columnOperand column with
      | none => exact ⟨h, .refl p⟩
      | some c => exact Panel.drawn_position hv hd startLine l c
  | home =>
    have home := Panel.drawn_position hv hd startLine 0 0
    simpa [opBursts, opRegs] using home
  | setInverse flag => exact absurd rfl (notInverse flag)
  | flip flag => exact absurd rfl (notFlip flag)
  | setDisplayColumnOffset n => exact absurd rfl (notOffset n)
  | setInverseFont | setPrintMode => exact ⟨⟨h.page_eq, h.column_eq, h.startLine_eq⟩, .refl p⟩
  | _ => exact ⟨h, .refl p⟩

end Drawing

end Sys2Proof.Machine
end

section
/-! PROOF. What stands on the display (70_reset_and_hazards.md R203 to R209): the pointers, the modes and the RAM after each
operation of which no burst failed. -/

namespace Sys2Proof.Machine

/-! ## Pointers (R207) -/

/-- A flip and its clear leave the pointers home, and the orientation is the one asked for (R167). -/
theorem Panel.drawn_flip {s : State} (hv : s.cfg.Valid) (hd : s.cfg.OpcodesDisjoint) (hz : s.cfg.clearSweepStart = .zero)
    (flag : Byte) (p : Panel) :
    (p.oriented (decide (flag.toNat ≠ 0))).Drawn (s.delivered (opBursts (.flip flag) s) p) s.homed := by
  rw [opBursts, State.delivered_append, State.delivered_flip hv hd, boolOperand_eq]
  exact Panel.drawn_clear hv hd hz _

/-- SET_INVERSE leaves the pointers (R165). -/
theorem Panel.follows_setInverse {s : State} (hv : s.cfg.Valid) (hd : s.cfg.OpcodesDisjoint) {p : Panel} (h : p.Follows s)
    (flag : Byte) : (s.delivered (opBursts (.setInverse flag) s) p).Follows s := by
  rw [State.delivered_setInverse hv hd]
  exact ⟨h.page_eq, h.column_eq, h.startLine_eq⟩

theorem Panel.follows_op {s : State} (hv : s.cfg.Valid) (hd : s.cfg.OpcodesDisjoint) (hz : s.cfg.clearSweepStart = .zero)
    (hs : s.Inv) (hc : s.connected = true) {p : Panel} (h : p.Follows s) {i : Instr}
    (notOffset : ∀ n, i ≠ .setDisplayColumnOffset n) : (s.delivered (opBursts i s) p).Follows (opRegs i s) := by
  cases i with
  | setInverse flag => exact Panel.follows_setInverse hv hd h flag
  | flip flag => exact (Panel.drawn_flip hv hd hz flag p).follows
  | _ => refine (Panel.drawn_op hv hd hz hs hc h ?_ ?_ notOffset).follows <;> nofun

/-- A clear that ends an operation: the registers and the controller it leaves. -/
structure Cleared (s t : State) : Prop where
  panel_eq : ∃ p, t.panel = s.delivered (wireClear s) p
  core_eq : t.core = s.homed.core

theorem Cleared.coherent {s t : State} (h : Cleared s t) (hv : s.cfg.Valid) (hd : s.cfg.OpcodesDisjoint)
    (hz : s.cfg.clearSweepStart = .zero) : t.Coherent := by
  obtain ⟨p, panel⟩ := h.panel_eq
  exact .of_follows (Panel.drawn_clear hv hd hz p).follows panel h.core_eq

/-- R203: a cleared display is zero, its start line 0, its pointers home. -/
theorem Cleared.display {s t : State} (h : Cleared s t) (hv : s.cfg.Valid) (hd : s.cfg.OpcodesDisjoint)
    (hz : s.cfg.clearSweepStart = .zero) :
    (∀ page column, page < 8 → column < chipWidth t.chip → t.ramByte page column = some 0) ∧
    t.panel.startLine = 0 ∧ t.panel.page = 0 ∧ t.panel.column.toNat = t.columnOffset.toNat := by
  have := s.columnOffset.isLt
  obtain ⟨p, panel⟩ := h.panel_eq
  obtain ⟨page, column, startLine, -, -, -, zero⟩ := Panel.deliver_clear hv hd hz p _ panel
  obtain ⟨chip, -, -, -, -, -, offset, -⟩ := State.core_fields h.core_eq
  refine ⟨fun a x ha hx => zero a x ha (chip ▸ hx), startLine, page, ?_⟩
  rw [column, offset, BitVec.toNat_ofNat, Nat.mod_eq_of_lt (by omega)]
  rfl

/-- A successful INIT ends with a clear. -/
theorem State.found_cleared {chip : Chip} {sel : Byte} {as : List Byte} {s : State}
    (ok : ((s.probed as).initConnected chip sel).txerr = false) :
    Cleared (s.initStart chip sel as) ((s.probed as).initConnected chip sel) :=
  ⟨⟨_, found_panel ok⟩, found_core chip sel as s⟩

theorem InitRun.cleared {s t : State} {chip : Chip} {req : Byte} (run : InitRun s chip req t) (status : t.status = .ok)
    (ok : t.txerr = false) : ∃ sel as, Cleared (s.initStart chip sel as) t := by
  cases run with
  | invalid => cases status
  | notFound => cases status
  | found => exact ⟨_, _, State.found_cleared ok⟩

/-- Settles O49: operation by operation the last burst that moves the pointers puts them where the registers say; an INIT without
a device leaves both. -/
theorem pointersFollowTheCursor : Obligations.PointersFollowTheCursor := by
  intro i s t hv hd hz hs hco hi notOffset h ok
  cases exec_run h with
  | wire host => simp [host] at hi
  | disconnected => exact hco
  | op _ _ hc ran =>
    exact .of_follows (Panel.follows_op hv hd hz hs hc hco notOffset) (ran.panel_eq ok) ran.core_eq
  | init run =>
    cases run with
    | invalid => exact ⟨hco.page_eq, hco.column_eq, hco.startLine_eq⟩
    | notFound _ failed =>
      obtain ⟨core, -, -, -, panel⟩ := State.notFound_result failed
      have kept : s.panel.Follows { s with connected := false, status := .deviceNotFound } :=
        ⟨hco.page_eq, hco.column_eq, hco.startLine_eq⟩
      exact .of_follows kept panel core
    | found => exact (State.found_cleared ok).coherent hv hd hz

/-! ## Clearing -/

theorem Ran.cleared_of_clear {s t r : State} (ran : Ran s t r (wireClear s)) (regs : r.core = s.homed.core)
    (ok : t.txerr = false) : Cleared s t := ⟨⟨s.panel, ran.panel_eq ok⟩, ran.core_eq.trans regs⟩

theorem Ran.cleared_of_flip {s t : State} {flag : Byte} (ran : Ran s t s.homed (opBursts (.flip flag) s)) (ok : t.txerr = false) :
    Cleared s t :=
  ⟨⟨_, (ran.panel_eq ok).trans (State.delivered_append ..)⟩, ran.core_eq⟩

/-- Settles O50: each of the three ends with a clear. -/
theorem clearingZeroesTheDisplay : Obligations.ClearingZeroesTheDisplay := by
  intro i s t hv hd hz hs ways h ok
  rcases ways with ⟨⟨c, r, rfl⟩, status⟩ | ⟨rfl | ⟨f, rfl⟩, hc⟩
  · obtain ⟨sel, as, cleared⟩ := (initRun_of_exec h).cleared status ok
    exact cleared.display hv hd hz
  · rcases exec_ran_gated (i := .clear) rfl nofun h with ⟨-, ran⟩ | ⟨off, -⟩
    · exact (ran.cleared_of_clear rfl ok).display hv hd hz
    · simp [hc] at off
  · rcases exec_ran_gated (i := .flip f) rfl nofun h with ⟨-, ran⟩ | ⟨off, -⟩
    · exact (ran.cleared_of_flip ok).display hv hd hz
    · simp [hc] at off

/-! ## Printing -/

/-- The bytes of a glyph as they are stored (R106). -/
def glyphData (s : State) (code : Byte) : List Byte :=
  (glyphToList (glyphOf s.cfg code)).map fun g => if s.inverseFont then g ^^^ 0xFF else g

/-- Eight bytes stored on a controller whose pointers are known: they stand there, all else is as before. -/
theorem Panel.storeRun_cell {p q : Panel} {ds : List Byte} {page first : Nat} (hq : q = (p.storeRun ds).atPhase .control)
    (length : ds.length = 8) (hp : p.page.toNat = page) (hx : p.column.toNat = first) :
    (∀ k, k < 8 → q.ram.read (page * 256 + (first + k)) = ds[k]?) ∧
    ∀ x, (x < page * 256 + first ∨ page * 256 + first + 8 ≤ x) → q.ram.read x = p.ram.read x := by
  subst hq hp hx
  simp only [Panel.atPhase_ram, Panel.storeRun_read, length]
  refine ⟨fun k hk => ?_, fun x hx => ?_⟩
  · rw [if_pos (by omega), show p.page.toNat * 256 + (p.column.toNat + k) - (p.page.toNat * 256 + p.column.toNat) = k by omega]
  · rw [if_neg (by omega)]

/-- The run of a connected PRINT_CHAR. -/
theorem printChar_ran {s t : State} {code : Byte} (hc : s.connected = true) (h : exec (.printChar code) s = .next t) :
    Ran s t (printRegs code s) (printBursts code s) := by
  rcases exec_ran_gated (i := .printChar code) rfl nofun h with ⟨-, ran⟩ | ⟨off, -⟩
  · exact ran
  · simp [hc] at off

/-- Settles O51: the glyph's burst is stored from the pointers on, which are at the cell of the cursor. -/
theorem glyphLandsInItsCell : Obligations.GlyphLandsInItsCell := by
  rintro s t code page first hv hs hco hc low high column h ok rfl rfl
  have ran := printChar_ran hc h
  have fits : s.panel.column.toNat + 8 ≤ chipWidth s.chip := by
    rw [hco.column_eq]
    exact hs.cell_fits hc column
  have panel : t.panel = (s.panel.storeRun (glyphData s code)).atPhase .control := by
    rw [ran.panel_eq ok, printBursts_printable low high, glyphBursts_unwrapped column, State.delivered_glyph hv fits]
    rfl
  exact Panel.storeRun_cell panel (glyph_length s code) hco.page_eq hco.column_eq

/-- Settles O52: the line advance puts the pointers at the first cell of the line entered, and the glyph is stored from there. -/
theorem glyphAfterPendingWrapLandsInColumnZero : Obligations.GlyphAfterPendingWrapLandsInColumnZero := by
  rintro s t code page first hv hd hz hc low high wrap h ok rfl rfl
  have ran := printChar_ran hc h
  have core : t.core = ((s.advanced false).columnAt 1).core := by
    rw [ran.core_eq, printRegs_printable low high, glyphRegs_wrapped wrap]
  obtain ⟨-, -, -, line, -, offset, -⟩ := State.core_fields core
  have width : s.columnOffset.toNat + 8 ≤ chipWidth s.chip := by
    have := s.columnOffset.isLt
    cases s.chip <;> simp only [chipWidth] <;> omega
  have panel : t.panel = ((s.panel.advancedTo s (s.advanced false).line.toNat (s.advanced false).lineOffset).storeRun
      (glyphData s code)).atPhase .control := by
    rw [ran.panel_eq ok, printBursts_printable low high, glyphBursts_wrapped wrap, State.delivered_append,
      State.delivered_advance hv hd fun _ => hz, State.delivered_glyph hv (by rw [Panel.advancedTo_column]; exact width)]
    rfl
  obtain ⟨cell, rest⟩ := Panel.storeRun_cell panel (glyph_length s code) (Panel.advancedTo_page ..) (Panel.advancedTo_column ..)
  simp only [line, offset, State.columnAt_line, State.columnAt_lineOffset]
  exact ⟨cell, fun x hx => by rw [rest x hx, Panel.advancedTo_read]⟩

/-- Bytes of different pages have different addresses (R57). -/
theorem other_page {p page column width : Nat} (hx : column < 256) (hw : width ≤ 256) (h : p ≠ page) :
    ¬ (page * 256 ≤ p * 256 + column ∧ p * 256 + column < page * 256 + width) := by
  omega

/-- A page read after it, and no other, was zeroed over the width of the chip. -/
theorem State.ramByte_of_zeroed {s t : State} {page : Nat}
    (h : ∀ x, t.panel.ram.read x =
      if page * 256 ≤ x ∧ x < page * 256 + chipWidth s.chip then some 0 else s.panel.ram.read x) :
    (∀ column, column < chipWidth s.chip → t.ramByte page column = some 0) ∧
    ∀ p column, p < 8 → column < 256 → p ≠ page → t.ramByte p column = s.ramByte p column := by
  refine ⟨fun column hx => ?_, fun p column _ hx other => ?_⟩
  · rw [State.ramByte, h, if_pos (by omega)]
  · rw [State.ramByte, h, if_neg (other_page hx (Nat.le_of_lt (chipWidth_lt s.chip)) other)]
    rfl

/-- Settles O53: the newline's line advance clears the page it enters. -/
theorem scrollingNewlineZeroesTheEnteredPageOnly : Obligations.ScrollingNewlineZeroesTheEnteredPageOnly := by
  rintro s t page hv hd hz hc scroll h ok rfl
  have ran := printChar_ran hc h
  have core : t.core = ((s.advanced true).columnAt 0).core := ran.core_eq
  obtain ⟨-, -, -, line, -, offset, -⟩ := State.core_fields core
  have panel : t.panel = s.panel.advancedTo s (s.advanced true).line.toNat (s.advanced true).lineOffset :=
    (ran.panel_eq ok).trans (State.delivered_advance hv hd (fun _ => hz) true _)
  obtain ⟨zero, others⟩ := State.ramByte_of_zeroed (s := s) (t := t)
    (page := ((s.advanced true).line.toNat + (s.advanced true).lineOffset.toNat) % 8) fun x => by
      rw [panel, Panel.advancedTo_read]
      simp [scroll]
  have := s.lineOffset.isLt
  simp only [line, offset, State.columnAt_line, State.columnAt_lineOffset]
  refine ⟨zero, others, fun bottom => ?_, fun above => ?_⟩
  · rw [advanced_line, advanced_lineOffset]
    simp [scroll, lineAfter, lineOffsetAfter, bottom]
    omega
  · rw [advanced_line, advanced_lineOffset]
    simp [scroll, lineAfter, lineOffsetAfter, Nat.ne_of_lt above]

/-! ## Clearing a line -/

/-- What a line clear leaves on the display (R160). -/
theorem Ran.lineCleared {s t r : State} {row : Nat} (ran : Ran s t r (wireClearLine s row)) (hv : s.cfg.Valid)
    (hd : s.cfg.OpcodesDisjoint) (hz : s.cfg.clearSweepStart = .zero) (ok : t.txerr = false) (x : Nat) :
    t.panel.ram.read x =
      if (row + s.lineOffset.toNat) % 8 * 256 ≤ x ∧ x < (row + s.lineOffset.toNat) % 8 * 256 + chipWidth s.chip then some 0
      else s.panel.ram.read x := by
  rw [ran.panel_eq ok, State.delivered_clearLine hv hd hz, Panel.pointAt_ram, Panel.clearPage_read]

/-- Settles O54: either operation is the bursts of one line clear. -/
theorem clearLineZeroesItsPageOnly : Obligations.ClearLineZeroesItsPageOnly := by
  rintro i s t row page hv hd hz hc ways h ok rfl
  have bursts : i.isHost = true ∧ (∀ c r, i ≠ .init c r) ∧ opBursts i s = wireClearLine s row := by
    rcases ways with ⟨rfl, hr⟩ | ⟨rfl, rfl⟩
    · have number : (BitVec.ofNat 8 row).toNat = row := by simp; omega
      have operand : lineOperand (BitVec.ofNat 8 row) = some (BitVec.ofNat 3 row) := by
        rw [lineOperand_eq, number, if_pos hr]
      refine ⟨rfl, nofun, ?_⟩
      simp only [opBursts, operand]
      rw [BitVec.toNat_ofNat, Nat.mod_eq_of_lt (by omega)]
    · exact ⟨rfl, nofun, rfl⟩
  obtain ⟨hi, notInit, bursts⟩ := bursts
  rcases exec_ran_gated hi notInit h with ⟨-, ran⟩ | ⟨off, -⟩
  · rw [bursts] at ran
    exact State.ramByte_of_zeroed fun x => ran.lineCleared hv hd hz ok x
  · simp [hc] at off

/-! ## The forms that store nothing -/

/-- The forms that store nothing (R108, R138, R139, R165, R110, R111, R170, R105). -/
def StoresNothing (i : Instr) (s : State) : Prop :=
  (∃ l c, i = .setCursor l c) ∨ i = .home ∨ (∃ f, i = .setInverse f) ∨ (∃ f, i = .setInverseFont f) ∨
  (∃ m, i = .setPrintMode m) ∨ (∃ n, i = .setDisplayColumnOffset n) ∨ (i = .printChar 0x0A ∧ s.printMode ≠ .scrollLine) ∨
  (∃ k, i = .printChar k ∧ k ≠ 0x0A ∧ (k.toNat < 32 ∨ 127 ≤ k.toNat))

/-- The bursts of these forms, received, leave the RAM: they position, set a mode or are none. -/
theorem State.delivered_ram {s : State} (hv : s.cfg.Valid) (hd : s.cfg.OpcodesDisjoint) {i : Instr}
    (form : StoresNothing i s) (p : Panel) :
    (s.delivered (opBursts i s) p).ram = p.ram := by
  have offset := s.columnOffset.isLt
  have position (l px : Nat) (hpx : px < 128) : (s.delivered [wirePosition s.cfg s.lineOffset.toNat l px] p).ram = p.ram := by
    rw [delivered_position hv hd _ _ _ hpx]
    rfl
  rcases form with ⟨l, c, rfl⟩ | rfl | ⟨f, rfl⟩ | ⟨f, rfl⟩ | ⟨m, rfl⟩ | ⟨n, rfl⟩ | ⟨rfl, overwrite⟩ | ⟨k, rfl, other, range⟩
  · simp only [opBursts]
    split
    case h_1 l c _ _ => exact position _ _ (by have := c.isLt; omega)
    all_goals rfl
  · exact position _ _ (by omega)
  · rw [delivered_setInverse hv hd]
    rfl
  · rfl
  · rfl
  · rfl
  · rw [show opBursts (.printChar 0x0A) s = advanceBursts true s from rfl, delivered_advance hv hd fun scroll => absurd scroll overwrite]
    simp [Panel.advancedTo, overwrite]
  · simp only [opBursts, printBursts, charClass_ignored other range]
    rfl

/-- Settles O55. -/
theorem formsThatStoreNothingLeaveTheDisplay : Obligations.FormsThatStoreNothingLeaveTheDisplay := by
  intro i s t hv hd form h ok x
  have host : i.isHost = true ∧ ∀ c r, i ≠ .init c r := by
    rcases form with ⟨l, c, rfl⟩ | rfl | ⟨f, rfl⟩ | ⟨f, rfl⟩ | ⟨m, rfl⟩ | ⟨n, rfl⟩ | ⟨rfl, -⟩ | ⟨k, rfl, -⟩ <;>
      exact ⟨rfl, nofun⟩
  rcases exec_ran_gated host.1 host.2 h with ⟨-, ran⟩ | ⟨-, rfl⟩
  · rw [ran.panel_eq ok, State.delivered_ram hv hd form]
  · rfl

/-! ## The panel modes -/

/-- The modes of the controller `q` that an operation leaves from `p`: SET_INVERSE and FLIP put them at their flag (R165, R167). -/
def ModesFollow (i : Instr) (p q : Panel) : Prop :=
  (∀ f, i = .setInverse f → q.inverse = decide (f.toNat ≠ 0)) ∧ ((∀ f, i ≠ .setInverse f) → q.inverse = p.inverse) ∧
  (∀ f, i = .flip f → q.segFlipped = decide (f.toNat ≠ 0) ∧ q.scanFlipped = decide (f.toNat ≠ 0)) ∧
  ((∀ f, i ≠ .flip f) → q.segFlipped = p.segFlipped ∧ q.scanFlipped = p.scanFlipped)

/-- An operation that is neither, and keeps the modes. -/
theorem Panel.SameModes.modesFollow {p q : Panel} (h : p.SameModes q) {i : Instr} (notInverse : ∀ f, i ≠ .setInverse f)
    (notFlip : ∀ f, i ≠ .flip f) : ModesFollow i p q :=
  ⟨fun f e => absurd e (notInverse f), fun _ => h.inverse_eq, fun f e => absurd e (notFlip f),
    fun _ => ⟨h.segFlipped_eq, h.scanFlipped_eq⟩⟩

theorem Panel.modesFollow_op {s : State} (hv : s.cfg.Valid) (hd : s.cfg.OpcodesDisjoint) (hz : s.cfg.clearSweepStart = .zero)
    (hs : s.Inv) (hc : s.connected = true) {p : Panel} (h : p.Follows s) (i : Instr) :
    ModesFollow i p (s.delivered (opBursts i s) p) := by
  cases i with
  | setInverse flag =>
    rw [State.delivered_setInverse hv hd]
    exact ⟨fun f e => by cases e; rfl, fun n => absurd rfl (n flag), nofun, fun _ => ⟨rfl, rfl⟩⟩
  | flip flag =>
    obtain ⟨-, inverse, seg, scan⟩ := Panel.drawn_flip hv hd hz flag p
    exact ⟨nofun, fun _ => inverse, fun f e => by cases e; exact ⟨seg, scan⟩, fun n => absurd rfl (n flag)⟩
  | setDisplayColumnOffset n => exact (Panel.SameModes.refl p).modesFollow nofun nofun
  | _ => refine (Panel.drawn_op hv hd hz hs hc h ?_ ?_ ?_).modes.modesFollow ?_ ?_ <;> nofun

/-- Settles O56. -/
theorem panelModesFollowTheirOperations : Obligations.PanelModesFollowTheirOperations := by
  intro i s t hv hd hz hs hco hc hi notInit h ok
  rcases exec_ran_gated hi notInit h with ⟨-, ran⟩ | ⟨off, -⟩
  · have modes := Panel.modesFollow_op hv hd hz hs hc hco i
    rwa [← ran.panel_eq ok] at modes
  · simp [hc] at off

/-! ## FLIP there and back -/

/-- A connected FLIP of which no burst failed. -/
theorem exec_flip {s t : State} {flag : Byte} (hv : s.cfg.Valid) (hd : s.cfg.OpcodesDisjoint)
    (hz : s.cfg.clearSweepStart = .zero) (hc : s.connected = true) (h : exec (.flip flag) s = .next t) (ok : t.txerr = false) :
    t.core = s.homed.core ∧ s.txerr = false ∧ t.panel.segFlipped = decide (flag.toNat ≠ 0) ∧
    t.panel.scanFlipped = decide (flag.toNat ≠ 0) ∧
    ∀ page column, page < 8 → column < chipWidth s.chip → t.ramByte page column = some 0 := by
  rcases exec_ran_gated (i := .flip flag) rfl nofun h with ⟨-, ran⟩ | ⟨off, -⟩
  · obtain ⟨-, -, seg, scan⟩ := Panel.drawn_flip hv hd hz flag s.panel
    have core : t.core = s.homed.core := ran.core_eq
    obtain ⟨chip, -⟩ := State.core_fields core
    have display := ((ran.cleared_of_flip ok).display hv hd hz).1
    refine ⟨ran.core_eq, ran.sent.txerr_mono ok, ?_, ?_, fun page column hp hx => display page column hp (chip ▸ hx)⟩
    · rw [ran.panel_eq ok]; exact seg
    · rw [ran.panel_eq ok]; exact scan
  · simp [hc] at off

/-- Settles O57: each FLIP sets both settings and clears; the second needs the parameters and the connection that the first
leaves. -/
theorem flipThereAndBack : Obligations.FlipThereAndBack := by
  intro s t u hv hd hz _ hc h1 h2 ok
  obtain ⟨v, e, run⟩ := exec_ran (i := .flip 1) rfl nofun hc
  obtain rfl := Host.Outcome.next.inj (e.symm.trans h1)
  obtain ⟨chip, -, connected, -, -, -, -, -, -, -, cfg, -⟩ := State.core_fields (run.core_eq : v.core = s.homed.core)
  obtain ⟨core2, ok1, seg2, scan2, zero2⟩ := exec_flip (cfg ▸ hv) (cfg ▸ hd) (cfg ▸ hz) (connected.trans hc) h2 ok
  obtain ⟨core1, -, seg1, scan1, zero1⟩ := exec_flip hv hd hz hc h1 ok1
  have home : u.core = s.homed.core :=
    core2.trans (State.core_windowAt (State.core_columnAt (State.core_lineAt core1 0) 0) 0)
  exact ⟨seg1, scan1, seg2, scan2, fun page column hp hx => ⟨zero1 page column hp hx, zero2 page column hp (chip ▸ hx)⟩, home,
    core1.trans home.symm⟩

/-! ## The orientation INIT leaves -/

/-- R153: a chip's power-on table holds no flipped orientation opcode. -/
theorem powerOnBursts_unflipped {c : Config} (hv : c.Valid) (chip : Chip) :
    ∀ b ∈ powerOnBursts c chip, ∀ x ∈ b.bytes, x.isArgument = false → x.byte ≠ c.opSegFlipped ∧ x.byte ≠ c.opScanFlipped := by
  obtain ⟨-, -, -, -, unflipped⟩ := hv
  intro b hb
  refine unflipped b ?_
  cases chip with
  | sh1106 => exact List.mem_append_left _ hb
  | ssd1306 => exact List.mem_append_right _ hb

/-- The home position and the clear that end an INIT leave the orientation of its power-on table (R153). -/
theorem State.found_modes {chip : Chip} {sel : Byte} {as : List Byte} {s : State} (hv : s.cfg.Valid)
    (hd : s.cfg.OpcodesDisjoint) (hz : s.cfg.clearSweepStart = .zero)
    (ok : ((s.probed as).initConnected chip sel).txerr = false) :
    ((powerOnBursts s.cfg chip).foldl (fun p b => p.powerOn s.cfg b) (s.probed as).panel).SameModes
      ((s.probed as).initConnected chip sel).panel := by
  rw [found_panel ok]
  generalize (powerOnBursts s.cfg chip).foldl (fun p b => p.powerOn s.cfg b) (s.probed as).panel = p
  have offset := (s.initStart chip sel as).columnOffset.isLt
  have home : (s.initStart chip sel as).delivered
      [wirePosition s.cfg s.lineOffset.toNat 0 (s.initStart chip sel as).columnOffset.toNat] p =
        p.pointAt ((0 + s.lineOffset.toNat) % 8) (s.initStart chip sel as).columnOffset.toNat :=
    delivered_position (s := s.initStart chip sel as) hv hd _ _ _ (by omega) p
  have cleared (q : Panel) := (Panel.drawn_clear (s := s.initStart chip sel as) hv hd hz q).modes
  rw [home]
  exact ⟨(cleared _).inverse_eq, (cleared _).segFlipped_eq, (cleared _).scanFlipped_eq⟩

/-- After a successful INIT the modes are those its power-on table left. -/
theorem InitRun.modes {s t : State} {chip : Chip} {req : Byte} (run : InitRun s chip req t) (hv : s.cfg.Valid)
    (hd : s.cfg.OpcodesDisjoint) (hz : s.cfg.clearSweepStart = .zero) (status : t.status = .ok) (ok : t.txerr = false) :
    t.connected = true ∧
    ∃ as, ((powerOnBursts s.cfg chip).foldl (fun p b => p.powerOn s.cfg b) (s.probed as).panel).SameModes t.panel := by
  cases run with
  | invalid => cases status
  | notFound => cases status
  | found => exact ⟨State.core_connected_eq (State.found_core ..), _, State.found_modes hv hd hz ok⟩

/-- Settles O60: the unflipped opcodes of the table are the last to set the orientation, and FLIP 0 sets the same. -/
theorem powerOnOrientationIsUnflipped : Obligations.PowerOnOrientationIsUnflipped := by
  intro s t c req hv hd hz h status ok
  have frame := (exec_run h).frame
  obtain ⟨connected, as, modes⟩ := (initRun_of_exec h).modes hv hd hz status ok
  obtain ⟨seg, scan⟩ := State.probeAll_orientation as { s with connected := false }
  obtain ⟨segSet, segKept, scanSet, scanKept⟩ :=
    Panel.powerOn_orientation hd (powerOnBursts s.cfg c) (powerOnBursts_unflipped hv c) (s.probed as).panel
  refine ⟨?_, ?_, fun u v h1 h2 ok2 hasSeg hasScan => ?_⟩
  · rw [modes.segFlipped_eq]
    split
    · exact segSet ‹_›
    · exact (segKept ‹_›).trans seg
  · rw [modes.scanFlipped_eq]
    split
    · exact scanSet ‹_›
    · exact (scanKept ‹_›).trans scan
  · have between := (exec_run h1).frame
    have cfg : u.cfg = s.cfg := between.cfg_eq.trans frame.cfg_eq
    obtain ⟨-, -, stays, -⟩ := between.device_eq nofun
    obtain ⟨-, -, seg2, scan2, -⟩ := exec_flip (cfg ▸ hv) (cfg ▸ hd) (cfg ▸ hz) (stays.trans connected) h2 ok2
    rw [seg2, scan2, modes.segFlipped_eq, modes.scanFlipped_eq, segSet hasSeg, scanSet hasScan]
    exact ⟨rfl, rfl⟩

end Sys2Proof.Machine
end
